-- ==== Sys2Proof/Word.lean ====
section
/-! DEFINITION. The datum of the machine: a nibble (spec/00_scope.md R5, R6), the packed request word W12
(spec/30_encoding.md R34) and the three single-bit flags (spec/10_state.md R11). -/

namespace Sys2Proof

/-- A nibble: exactly 4 bits (R5), bit `i` the bit of weight `2^i`, bit 3 the sign bit (R6). -/
abbrev Nibble := BitVec 4

/-- The 12-bit request word `A ‖ B ‖ OP` (R34, decision D6): a convention of tables and vectors, not a port. -/
abbrev W12 := BitVec 12

/-- The flag tuple, always in the order Zero, Carry, Overflow (R11). -/
structure Flags where
  z : Bool
  c : Bool
  v : Bool
  deriving DecidableEq, Repr, Inhabited

end Sys2Proof
end

