-- ==== Sys2Proof/Syntax.lean ====
section
/-! DEFINITION. The sixteen operations and the data that crosses the block's boundary: requests
(spec/30_encoding.md R33), what `evaluate` returns (spec/00_scope.md R2), and table rows (spec/44_truth_table.md R75). -/

namespace Sys2Proof

/-- The closed enumerated opcode type the document asks for (R36), in the order of the opcode map R37. -/
inductive Op where
  | add | subab | subba | mul
  | and | or | xor | nand | pass | not
  | sll | srl | sla | sra | rol | ror
  deriving DecidableEq, Repr

/-- One request with its opcode decoded: one constructor per row of spec/opcode_table.json (R37).
Every request has both operand fields (R33): opcodes 8 to 15 carry a `B` that they ignore (R18). -/
inductive Instr where
  | add   (a b : Nibble)
  | subab (a b : Nibble)
  | subba (a b : Nibble)
  | mul   (a b : Nibble)
  | and   (a b : Nibble)
  | or    (a b : Nibble)
  | xor   (a b : Nibble)
  | nand  (a b : Nibble)
  | pass  (a b : Nibble)
  | not   (a b : Nibble)
  | sll   (a b : Nibble)
  | srl   (a b : Nibble)
  | sla   (a b : Nibble)
  | sra   (a b : Nibble)
  | rol   (a b : Nibble)
  | ror   (a b : Nibble)
  deriving DecidableEq, Repr

/-- The three fields of a request, by name (R33): what a `DomainViolation` records (spec/60_exceptions.md R93). -/
inductive Field where
  | A | B | OP
  deriving DecidableEq, Repr

/-- A request as it arrives at a boundary that can carry more than four bits (R93): three integers. -/
structure Request where
  a  : Int
  b  : Int
  op : Int
  deriving DecidableEq, Repr

/-- What `evaluate` returns: the result nibble and the optional flags (R2, R12). `none` is the absence of flags,
not a triple of zeros. -/
structure Evaluation where
  r     : Nibble
  flags : Option Flags
  deriving DecidableEq, Repr

/-- A truth-table row (R75); `flags` is `none` under the schema without flag columns (R80, R84). -/
structure Row where
  a     : Nibble
  b     : Nibble
  op    : Nibble
  r     : Nibble
  flags : Option Flags
  deriving DecidableEq, Repr

/-- The operation an instruction selects. -/
def Instr.operation : Instr → Op
  | .add _ _ => .add | .subab _ _ => .subab | .subba _ _ => .subba | .mul _ _ => .mul
  | .and _ _ => .and | .or _ _ => .or | .xor _ _ => .xor | .nand _ _ => .nand
  | .pass _ _ => .pass | .not _ _ => .not | .sll _ _ => .sll | .srl _ _ => .srl
  | .sla _ _ => .sla | .sra _ _ => .sra | .rol _ _ => .rol | .ror _ _ => .ror

/-- The first operand field. -/
def Instr.opA : Instr → Nibble
  | .add a _ | .subab a _ | .subba a _ | .mul a _ | .and a _ | .or a _ | .xor a _ | .nand a _
  | .pass a _ | .not a _ | .sll a _ | .srl a _ | .sla a _ | .sra a _ | .rol a _ | .ror a _ => a

/-- The second operand field (present, and ignored, for opcodes 8 to 15: R18). -/
def Instr.opB : Instr → Nibble
  | .add _ b | .subab _ b | .subba _ b | .mul _ b | .and _ b | .or _ b | .xor _ b | .nand _ b
  | .pass _ b | .not _ b | .sll _ b | .srl _ b | .sla _ b | .sra _ b | .rol _ b | .ror _ b => b

end Sys2Proof
end

