-- ==== Sys2Proof/Config.lean ====
section
/-! DEFINITION. What is fixed for one instance of the hardware (the table configuration, spec/00_scope.md R5,
spec/44_truth_table.md R76) and the free values: constants without a body for what the spec gives no value. Equal arguments give equal values: DESIGN CHOICE, log entry 6. -/

namespace Sys2Proof

/-- The three table configurations (R5, R76; the names are decision D1). -/
inductive Cfg where
  | arith3   -- opcodes 0 to 2, schema with flags, 768 rows
  | arith4   -- opcodes 0 to 3, schema with flags, 1024 rows
  | full16   -- opcodes 0 to 15, schema without flags, 4096 rows
  deriving DecidableEq, Repr

/-- Free value: the pins `Z`, `C`, `V` while `FV = 0`, for an index, the request at the inputs and the answer at the
outputs (spec/10_state.md R17, spec/93 U6); log entry 3. -/
opaque Config.freeFlagPins : Nat → Option Request → Evaluation → Flags

/-- Free value: the pin `DONE` before the first `RST`, where it carries no value (spec/70 R106, U12); log entry 4. -/
opaque Config.freeDone : Nat → Bool

/-- Free value: the four parts `(a, b, k, done)` of an unspecified cursor (R106, U12); log entry 4. -/
opaque Config.freeCursor : Nat → Nibble × Nibble × Nat × Bool

/-- Free value: what the sink holds when its content is unspecified (spec/60 R95, U7); log entry 5. -/
opaque Config.freeSink : Nat → List Row

end Sys2Proof
end

