-- ==== Sys2Proof/WellFormed.lean ====
section
/-! DEFINITION. What a well-formed request is: each of its inputs a nibble (spec/60_exceptions.md R93). -/

namespace Sys2Proof

/-- A value is a nibble when it is an integer in [0,15] (R93). -/
def inDomain (x : Int) : Bool := decide (0 ≤ x ∧ x ≤ 15)

/-- A request is well-formed when each of its three inputs is a nibble (R93). -/
def Request.wf (q : Request) : Bool := inDomain q.a && inDomain q.b && inDomain q.op

/-- An instruction is well-formed when its operand fields are nibbles: with 4-bit fields, always (R94). -/
def Instr.wf (i : Instr) : Bool := inDomain (i.opA.toNat : Int) && inDomain (i.opB.toNat : Int)

end Sys2Proof
end

