-- ==== Sys2Proof/Decode.lean ====
section
/-! DEFINITION. Reading a request (spec/30_encoding.md R33 to R42): the opcode map, the decoder of the packed
word and of a boundary wider than four bits, and the encoder. -/

namespace Sys2Proof

/-- The opcode map R37, number to operation, read bit by bit (`OP[3]`, `OP[2]`, `OP[1]`, `OP[0]`): closed over
all sixteen values, none reserved (R40). -/
def opOfNibble (op : Nibble) : Op :=
  match op.getLsbD 3, op.getLsbD 2, op.getLsbD 1, op.getLsbD 0 with
  | false, false, false, false => .add
  | false, false, false, true  => .subab
  | false, false, true,  false => .subba
  | false, false, true,  true  => .mul
  | false, true,  false, false => .and
  | false, true,  false, true  => .or
  | false, true,  true,  false => .xor
  | false, true,  true,  true  => .nand
  | true,  false, false, false => .pass
  | true,  false, false, true  => .not
  | true,  false, true,  false => .sll
  | true,  false, true,  true  => .srl
  | true,  true,  false, false => .sla
  | true,  true,  false, true  => .sra
  | true,  true,  true,  false => .rol
  | true,  true,  true,  true  => .ror

/-- The opcode map R37, operation to number (the column `OP` bin). -/
def nibbleOfOp : Op → Nibble
  | .add   => 0b0000#4
  | .subab => 0b0001#4
  | .subba => 0b0010#4
  | .mul   => 0b0011#4
  | .and   => 0b0100#4
  | .or    => 0b0101#4
  | .xor   => 0b0110#4
  | .nand  => 0b0111#4
  | .pass  => 0b1000#4
  | .not   => 0b1001#4
  | .sll   => 0b1010#4
  | .srl   => 0b1011#4
  | .sla   => 0b1100#4
  | .sra   => 0b1101#4
  | .rol   => 0b1110#4
  | .ror   => 0b1111#4

/-- The request of an operation on two operand values (R33: one format). -/
def instrOfOp (o : Op) (a b : Nibble) : Instr :=
  match o with
  | .add => .add a b | .subab => .subab a b | .subba => .subba a b | .mul => .mul a b
  | .and => .and a b | .or => .or a b | .xor => .xor a b | .nand => .nand a b
  | .pass => .pass a b | .not => .not a b | .sll => .sll a b | .srl => .srl a b
  | .sla => .sla a b | .sra => .sra a b | .rol => .rol a b | .ror => .ror a b

/-- The decoder of the packed word (R34): `A` in bits 11:8, `B` in 7:4, `OP` in 3:0. Total: every word is a
request (R40). -/
def decodeW12 (w : W12) : Instr :=
  instrOfOp (opOfNibble (w.extractLsb' 0 4)) (w.extractLsb' 8 4) (w.extractLsb' 4 4)

/-- The first input out of domain, in the order `A`, `B`, `OP` (R36, R98); `none` when all three are nibbles. -/
def Request.violation (q : Request) : Option Field :=
  if !inDomain q.a then some .A
  else if !inDomain q.b then some .B
  else if !inDomain q.op then some .OP
  else none

/-- The decoder at a boundary wider than four bits (R36, R93): the domain checks in the order `A`, `B`, `OP`,
the refusal naming the field; nothing is truncated (R94). -/
def decodeRequest (q : Request) : Except Field Instr :=
  match q.violation with
  | some f => .error f
  | none => .ok (instrOfOp (opOfNibble (BitVec.ofInt 4 q.op)) (BitVec.ofInt 4 q.a) (BitVec.ofInt 4 q.b))

/-- The three fields of a request number laid out as R34 lays them out, `A` taking every bit above 7, so that a
number wider than twelve bits gives an `A` out of domain (R93). -/
def requestOfNumber (n : Nat) : Request :=
  { a := ((n / 256 : Nat) : Int), b := ((n / 16 % 16 : Nat) : Int), op := ((n % 16 : Nat) : Int) }

/-- Decoding any number, rejecting by the name of the field out of domain. -/
def decodeNumber (n : Nat) : Except Field Instr := decodeRequest (requestOfNumber n)

/-- The host's question: the instruction this decoder reads from a table word of `nbits` bits. -/
def decodeTableWord (nbits w : Nat) : Option Instr :=
  match decodeNumber (w % 2 ^ nbits) with
  | .ok i => some i
  | .error _ => none

/-- The encoder (R34): `W12 = A[3:0] ‖ B[3:0] ‖ OP[3:0]`, the opcode from the map R37. -/
def encode (i : Instr) : W12 := i.opA ++ i.opB ++ nibbleOfOp i.operation

/-- The request an instruction stands for, as it is put on the boundary's three inputs (R33). -/
def requestOfInstr (i : Instr) : Request :=
  { a := (i.opA.toNat : Int), b := (i.opB.toNat : Int), op := ((nibbleOfOp i.operation).toNat : Int) }

end Sys2Proof
end

