-- ==== Sys2Proof/Machine/State.lean ====
section
/-! DEFINITION. The state of the block: the generator's cursor, the only state the spec gives (spec/10_state.md
R15, R20), the static configuration, and the boundary, what the host presents and what the block answers. -/

namespace Sys2Proof.Machine

/-- The cursor of the sequential generator `(a, b, k, done)` (R15): `k` is an index into the configuration's
opcode list, kept below its length by the invariant of Safety.lean. -/
structure Cursor where
  a    : Nibble
  b    : Nibble
  k    : Nat
  done : Bool
  deriving DecidableEq, Repr

/-- The model's own record of what the cursor means (log entry 4): before the first `RST` it is unspecified
(spec/70_reset_and_hazards.md R106), after a `SinkFailure` it is meaningless until `RST` (spec/60_exceptions.md R99). -/
inductive Phase where
  | beforeRst   -- no RST since power-up
  | running     -- a generation that began with RST, complete exactly when done = 1 (spec/44_truth_table.md R88)
  | aborted     -- a SinkFailure ended the generation
  deriving DecidableEq, Repr

/-- What the host presents to the block, one atomic step each (R111). -/
inductive Input where
  | request (q : Request)     -- a request to the evaluator (spec/30_encoding.md R33)
  | rst                       -- the generator's RST (R88, R106)
  | step                      -- the generator's STEP: the sink has taken the presented row (R88)
  | sinkFailure               -- the sink cannot take the header or the presented row (R95)
  | lookup (addr : Int)       -- a ROM lookup, MemRead(addr, 1) (spec/20_memory.md R23, R87)
  deriving DecidableEq, Repr

/-- The ROM data word (spec/20_memory.md R24): 7 bits under the schema with flags, 4 bits without. -/
inductive RomWord where
  | withFlags (data : BitVec 7)
  | plain (data : BitVec 4)
  deriving DecidableEq, Repr

/-- What the evaluator's outputs carry for the request at its inputs. -/
inductive Answer where
  | evaluated (e : Evaluation)       -- the result and the optional flags (R2, R12)
  | domainViolation (f : Field)      -- the request is refused: no result, no flags (R93, R94)
  deriving DecidableEq, Repr

/-- What the ROM's output carries for the address at its input. -/
inductive RomReply where
  | data (w : RomWord)               -- the data word of the row (R23)
  | refused                          -- the address has no row: no data word (R26)
  deriving DecidableEq, Repr

/-- The state. The spec's own: the cursor `cur` (R15). The static strap `cfg`, a parameter that no step writes
(R13). The boundary: what the host presents (`inbox`), the evaluator's present inputs and outputs (R16), the ROM's
(R19), and what the sink has taken (R88). The model's own: `phase` (log entry 4) and `freeIdx` (log entry 6).
Nothing in the block reads `answer` or `romReply`: an answer is transient (R7, R8). -/
structure State where
  cfg      : Cfg
  cur      : Cursor
  phase    : Phase
  inbox    : List Input
  request  : Option Request
  answer   : Option Answer
  romAddr  : Option Int
  romReply : Option RomReply
  sink     : List Row
  freeIdx  : Nat
  deriving DecidableEq, Repr

/-- Why the machine would stop with a fault: never. The evaluator is total and there is no other error, exception
or trap (R96); the two error outcomes and the refused lookup are answers after which the block goes on (R100, log
entry 2). -/
inductive Fault where
  deriving DecidableEq, Repr

/-- Why the machine would give an instruction no meaning. -/
inductive Refusal where
  /-- Raised by `exec`'s arm of an instruction that has no meaning yet (safe: the machine stops); no arm raises it. -/
  | notModelled (mnemonic : String)
  deriving DecidableEq, Repr

/-- The cursor after `RST`: the first row of the enumeration (R106). -/
def Cursor.first : Cursor := { a := 0b0000#4, b := 0b0000#4, k := 0, done := false }

/-- The block of configuration `cfg` right after `RST`, nothing presented and nothing answered (R20, R105, R106). -/
def State.resetWith (cfg : Cfg) : State :=
  { cfg := cfg, cur := Cursor.first, phase := .running, inbox := [],
    request := none, answer := none, romAddr := none, romReply := none, sink := [], freeIdx := 0 }

/-- The machine right after reset. `CFG` has no reset value (R13): the strap of this instance is the sixteen-opcode
table (DESIGN CHOICE, log entry 1). -/
def State.reset : State := State.resetWith .full16

/-- The block of configuration `cfg` after power-up and before the first `RST`: the cursor is unspecified, a free
value (R106). -/
def State.powerUp (cfg : Cfg) : State :=
  let c := Config.freeCursor 0
  { cfg := cfg, cur := { a := c.1, b := c.2.1, k := c.2.2.1, done := c.2.2.2 }, phase := .beforeRst,
    inbox := [], request := none, answer := none, romAddr := none, romReply := none,
    sink := Config.freeSink 0, freeIdx := 1 }

end Sys2Proof.Machine
end

