-- ==== Sys2Proof/Machine/Operands.lean ====
section
/-! DEFINITION. The views of an operand (spec/30_encoding.md R35) and the value conversions
(spec/40_conversion.md R45 to R49). -/

namespace Sys2Proof.Machine

/-- `u(v)`, the unsigned view: standard base-2 decode, 0 to 15 (R45). -/
def toUnsigned (v : Nibble) : Nat := v.toNat

/-- `v[3]`, the sign bit (R6, R49). -/
def signBit (v : Nibble) : Bool := v.getLsbD 3

/-- `s(v)`, the signed view: two's-complement decode, -8 to 7 (R46). -/
def toSigned (v : Nibble) : Int :=
  if signBit v then (toUnsigned v : Int) - 16 else (toUnsigned v : Int)

/-- `from_signed(n)`: the nibble `v` with `u(v) = n mod 16`, for every integer; wrap-around is the defined result
(R47). -/
def fromSigned (n : Int) : Nibble := BitVec.ofNat 4 (n % 16).toNat

/-- `not4(v)`: bitwise NOT over exactly 4 bits (R48). -/
def onesComplement (v : Nibble) : Nibble := ~~~v

/-- `div2floor(n)`: half of `n` rounded toward minus infinity (spec/00_scope.md section 5.1, R72). -/
def div2floor (n : Int) : Int := n / 2

end Sys2Proof.Machine
end

