-- ==== Sys2Proof/Machine/Flags.lean ====
section
/-! DEFINITION. The flag generator of the arithmetic family (spec/41_arithmetic.md R51 to R56). -/

namespace Sys2Proof.Machine

/-- `Z = 1` iff the result nibble, after wrap-around, is all-zero (R51). -/
def zeroFlag (r : Nibble) : Bool := r == 0b0000#4

/-- ADD's Carry: the unsigned sum exceeds 15 (R53). -/
def carryOut (sum : Nat) : Bool := decide (15 < sum)

/-- A subtraction's Carry: a borrow, by direct magnitude comparison (R54, R55, R58). -/
def borrow (minuend subtrahend : Nibble) : Bool :=
  decide (toUnsigned minuend < toUnsigned subtrahend)

/-- ADD's Overflow: operands of the same sign bit and a result of the other (R53, conflict C9). -/
def addOverflow (a b r : Nibble) : Bool := signBit a == signBit b && signBit r != signBit a

/-- A subtraction's Overflow: non-negative minus negative gives negative, or negative minus non-negative gives
non-negative (R54, R55). -/
def subOverflow (minuend subtrahend r : Nibble) : Bool :=
  (!signBit minuend && signBit subtrahend && signBit r)
    || (signBit minuend && !signBit subtrahend && !signBit r)

/-- MUL's Overflow: the truncated result decoded back to signed is not the product (R56). -/
def mulOverflow (p : Int) (r : Nibble) : Bool := toSigned r != p

end Sys2Proof.Machine
end

