-- ==== Sys2Proof/Machine/Ops.lean ====
section
/-! DEFINITION. The shared operations at the block's boundary: taking an input, answering it, refusing a request
(the hardware's one error class, spec/60_exceptions.md R93, R99), and the evaluator's pins (spec/10_state.md R16). -/

namespace Sys2Proof.Machine

/-- The block takes the input at the head of what the host presents, `rest` remaining; each input taken draws a
fresh index for the free values (log entry 6). -/
def State.takeInput (s : State) (rest : List Input) : State :=
  { s with inbox := rest, freeIdx := s.freeIdx + 1 }

/-- A request at the evaluator's inputs (R16). -/
def State.present (s : State) (q : Request) : State := { s with request := some q }

/-- A request's effect: `(R, flags)` at the outputs and nothing else, since the evaluator has no state (R8). -/
def State.respond (s : State) (e : Evaluation) : State := { s with answer := some (.evaluated e) }

/-- `DomainViolation` (R93, R94): the request gives no result and no flags, the offending input is named, and
nothing else in the block changes (R99). -/
def State.refuseRequest (s : State) (f : Field) : State := { s with answer := some (.domainViolation f) }

/-- The result and the flags at the outputs, if the request at the inputs was answered. -/
def State.evaluation (s : State) : Option Evaluation :=
  match s.answer with
  | some (.evaluated e) => some e
  | some (.domainViolation _) => none
  | none => none

/-- The evaluator's output pins (R16). -/
structure Pins where
  y  : Nibble
  fv : Bool
  z  : Bool
  c  : Bool
  v  : Bool
  deriving DecidableEq, Repr

/-- The pins that carry the answer `e` to the request `q` at the inputs: `FV = 1` exactly when flags exist; while
`FV = 0` the three flag pins are any value, a free value (R16, R17). DESIGN CHOICE (log entry 3): that value depends on
the state's index, the request and the answer, and on nothing else. -/
def pinsOf (q : Option Request) (e : Evaluation) (freeIdx : Nat) : Pins :=
  match e.flags with
  | some f => { y := e.r, fv := true, z := f.z, c := f.c, v := f.v }
  | none =>
    let f := Config.freeFlagPins freeIdx q e
    { y := e.r, fv := false, z := f.z, c := f.c, v := f.v }

/-- The evaluator's pins in state `s`. -/
def State.pins (s : State) : Option Pins := s.evaluation.map fun e => pinsOf s.request e s.freeIdx

end Sys2Proof.Machine
end

