-- ==== Sys2Proof/Machine/Arithmetic.lean ====
section
/-! DEFINITION. The arithmetic family, opcodes 0 to 3 (spec/41_arithmetic.md): each operation as the pure function
of its two operands, and its meaning as an instruction. -/

namespace Sys2Proof.Machine

/-- ADD (R53). -/
def evalAdd (a b : Nibble) : Evaluation :=
  let sum := toUnsigned a + toUnsigned b
  let r := BitVec.ofNat 4 (sum % 16)
  { r := r, flags := some { z := zeroFlag r, c := carryOut sum, v := addOverflow a b r } }

/-- `minuend - subtrahend` with its borrow and its flags, common to R54 and R55. -/
def subtract (minuend subtrahend : Nibble) : Evaluation :=
  let d : Int := (toUnsigned minuend : Int) - (toUnsigned subtrahend : Int)
  let r := if borrow minuend subtrahend then BitVec.ofNat 4 (d + 16).toNat else BitVec.ofNat 4 d.toNat
  { r := r, flags := some { z := zeroFlag r, c := borrow minuend subtrahend, v := subOverflow minuend subtrahend r } }

/-- SUBAB: `A - B` (R54). -/
def evalSubab (a b : Nibble) : Evaluation := subtract a b

/-- SUBBA: `B - A` (R55). -/
def evalSubba (a b : Nibble) : Evaluation := subtract b a

/-- MUL: the signed product truncated to a nibble, Carry constant 0 (R56, conflict C6). -/
def evalMul (a b : Nibble) : Evaluation :=
  let p := toSigned a * toSigned b
  let r := fromSigned p
  { r := r, flags := some { z := zeroFlag r, c := false, v := mulOverflow p r } }

/-- `ADD a, b`, opcode 0 (R53). -/
def execAdd (a b : Nibble) (s : State) : Host.Outcome State Fault Refusal := .next (s.respond (evalAdd a b))

/-- `SUBAB a, b`, opcode 1 (R54). -/
def execSubab (a b : Nibble) (s : State) : Host.Outcome State Fault Refusal := .next (s.respond (evalSubab a b))

/-- `SUBBA a, b`, opcode 2 (R55). -/
def execSubba (a b : Nibble) (s : State) : Host.Outcome State Fault Refusal := .next (s.respond (evalSubba a b))

/-- `MUL a, b`, opcode 3 (R56). -/
def execMul (a b : Nibble) (s : State) : Host.Outcome State Fault Refusal := .next (s.respond (evalMul a b))

end Sys2Proof.Machine
end

