-- ==== Sys2Proof/Machine/Logic.lean ====
section
/-! DEFINITION. Bitwise logic, pass and complement, opcodes 4 to 9 (spec/42_logic.md). No flags are produced (R61). -/

namespace Sys2Proof.Machine

/-- The answer of an operation of the logic/shift family: the result and no flags (R12, R61). -/
def noFlags (r : Nibble) : Evaluation := { r := r, flags := none }

/-- AND (R62). -/
def evalAnd (a b : Nibble) : Evaluation := noFlags (a &&& b)

/-- OR (R63). -/
def evalOr (a b : Nibble) : Evaluation := noFlags (a ||| b)

/-- XOR (R64). -/
def evalXor (a b : Nibble) : Evaluation := noFlags (a ^^^ b)

/-- NAND: bitwise AND then complement (R65). -/
def evalNand (a b : Nibble) : Evaluation := noFlags (onesComplement (a &&& b))

/-- PASS: `A` unchanged; not a negation (R66). `B` is ignored (R18). -/
def evalPass (a _b : Nibble) : Evaluation := noFlags a

/-- NOT: the one's complement of `A` (R67). `B` is ignored (R18). -/
def evalNot (a _b : Nibble) : Evaluation := noFlags (onesComplement a)

/-- `AND a, b`, opcode 4 (R62). -/
def execAnd (a b : Nibble) (s : State) : Host.Outcome State Fault Refusal := .next (s.respond (evalAnd a b))

/-- `OR a, b`, opcode 5 (R63). -/
def execOr (a b : Nibble) (s : State) : Host.Outcome State Fault Refusal := .next (s.respond (evalOr a b))

/-- `XOR a, b`, opcode 6 (R64). -/
def execXor (a b : Nibble) (s : State) : Host.Outcome State Fault Refusal := .next (s.respond (evalXor a b))

/-- `NAND a, b`, opcode 7 (R65). -/
def execNand (a b : Nibble) (s : State) : Host.Outcome State Fault Refusal := .next (s.respond (evalNand a b))

/-- `PASS a`, opcode 8 (R66). -/
def execPass (a b : Nibble) (s : State) : Host.Outcome State Fault Refusal := .next (s.respond (evalPass a b))

/-- `NOT a`, opcode 9 (R67). -/
def execNot (a b : Nibble) (s : State) : Host.Outcome State Fault Refusal := .next (s.respond (evalNot a b))

end Sys2Proof.Machine
end

