-- ==== Sys2Proof/Machine/Shift.lean ====
section
/-! DEFINITION. Shifts and rotates of `A` by exactly one position, opcodes 10 to 15 (spec/43_shift_rotate.md). `B`
is ignored, no flags are produced and a dropped bit is lost (R68). -/

namespace Sys2Proof.Machine

/-- The nibble of four bits, most significant first: `x3 ‖ x2 ‖ x1 ‖ x0`. -/
def nibbleOfBits (x3 x2 x1 x0 : Bool) : Nibble :=
  BitVec.ofBool x3 ++ BitVec.ofBool x2 ++ BitVec.ofBool x1 ++ BitVec.ofBool x0

/-- `A[2] ‖ A[1] ‖ A[0] ‖ 0`, the one left shift of R69 and R71. -/
def shiftLeftOne (a : Nibble) : Nibble :=
  nibbleOfBits (a.getLsbD 2) (a.getLsbD 1) (a.getLsbD 0) false

/-- SLL (R69). -/
def evalSll (a _b : Nibble) : Evaluation := noFlags (shiftLeftOne a)

/-- SRL: `0 ‖ A[3] ‖ A[2] ‖ A[1]` (R70). -/
def evalSrl (a _b : Nibble) : Evaluation :=
  noFlags (nibbleOfBits false (a.getLsbD 3) (a.getLsbD 2) (a.getLsbD 1))

/-- SLA: the documented alias, the operation of SLL under opcode 12 (R39, R71). -/
def evalSla (a _b : Nibble) : Evaluation := noFlags (shiftLeftOne a)

/-- SRA: the signed value halved toward minus infinity and re-encoded (R72). -/
def evalSra (a _b : Nibble) : Evaluation := noFlags (fromSigned (div2floor (toSigned a)))

/-- ROL: `A[2] ‖ A[1] ‖ A[0] ‖ A[3]` (R73). -/
def evalRol (a _b : Nibble) : Evaluation :=
  noFlags (nibbleOfBits (a.getLsbD 2) (a.getLsbD 1) (a.getLsbD 0) (a.getLsbD 3))

/-- ROR: `A[0] ‖ A[3] ‖ A[2] ‖ A[1]` (R74). -/
def evalRor (a _b : Nibble) : Evaluation :=
  noFlags (nibbleOfBits (a.getLsbD 0) (a.getLsbD 3) (a.getLsbD 2) (a.getLsbD 1))

/-- `SLL a`, opcode 10 (R69). -/
def execSll (a b : Nibble) (s : State) : Host.Outcome State Fault Refusal := .next (s.respond (evalSll a b))

/-- `SRL a`, opcode 11 (R70). -/
def execSrl (a b : Nibble) (s : State) : Host.Outcome State Fault Refusal := .next (s.respond (evalSrl a b))

/-- `SLA a`, opcode 12 (R71). -/
def execSla (a b : Nibble) (s : State) : Host.Outcome State Fault Refusal := .next (s.respond (evalSla a b))

/-- `SRA a`, opcode 13 (R72). -/
def execSra (a b : Nibble) (s : State) : Host.Outcome State Fault Refusal := .next (s.respond (evalSra a b))

/-- `ROL a`, opcode 14 (R73). -/
def execRol (a b : Nibble) (s : State) : Host.Outcome State Fault Refusal := .next (s.respond (evalRol a b))

/-- `ROR a`, opcode 15 (R74). -/
def execRor (a b : Nibble) (s : State) : Host.Outcome State Fault Refusal := .next (s.respond (evalRor a b))

end Sys2Proof.Machine
end

