-- ==== Sys2Proof/Machine/Dispatch.lean ====
section
/-! DEFINITION. One arm per operation (spec/30_encoding.md R36, R37), each a direct call of its meaning. -/

namespace Sys2Proof.Machine

def exec (i : Instr) (s : State) : Host.Outcome State Fault Refusal :=
  match i with
  | .add a b => Sys2Proof.Machine.execAdd a b s
  | .subab a b => Sys2Proof.Machine.execSubab a b s
  | .subba a b => Sys2Proof.Machine.execSubba a b s
  | .mul a b => Sys2Proof.Machine.execMul a b s
  | .and a b => Sys2Proof.Machine.execAnd a b s
  | .or a b => Sys2Proof.Machine.execOr a b s
  | .xor a b => Sys2Proof.Machine.execXor a b s
  | .nand a b => Sys2Proof.Machine.execNand a b s
  | .pass a b => Sys2Proof.Machine.execPass a b s
  | .not a b => Sys2Proof.Machine.execNot a b s
  | .sll a b => Sys2Proof.Machine.execSll a b s
  | .srl a b => Sys2Proof.Machine.execSrl a b s
  | .sla a b => Sys2Proof.Machine.execSla a b s
  | .sra a b => Sys2Proof.Machine.execSra a b s
  | .rol a b => Sys2Proof.Machine.execRol a b s
  | .ror a b => Sys2Proof.Machine.execRor a b s

end Sys2Proof.Machine
end

