-- ==== Sys2Proof/Machine/Evaluate.lean ====
section
/-! DEFINITION. The pure function `evaluate` (spec/00_scope.md R2, spec/30_encoding.md R36), on nibbles and at a
boundary wider than four bits. -/

namespace Sys2Proof.Machine

/-- The operation that an opcode selects, as a function of the operands: the closed dispatch of R36. -/
def evalOp (o : Op) (a b : Nibble) : Evaluation :=
  match o with
  | .add   => evalAdd a b
  | .subab => evalSubab a b
  | .subba => evalSubba a b
  | .mul   => evalMul a b
  | .and   => evalAnd a b
  | .or    => evalOr a b
  | .xor   => evalXor a b
  | .nand  => evalNand a b
  | .pass  => evalPass a b
  | .not   => evalNot a b
  | .sll   => evalSll a b
  | .srl   => evalSrl a b
  | .sla   => evalSla a b
  | .sra   => evalSra a b
  | .rol   => evalRol a b
  | .ror   => evalRor a b

/-- `evaluate(A, B, OP)` on nibbles: total, no state argument, no configuration (R2, R8, R41). -/
def evaluate (a b op : Nibble) : Evaluation := evalOp (opOfNibble op) a b

/-- `evaluate` at a boundary wider than four bits: the domain checks first (R36, R93), and only for a request
inside the domain an operation. -/
def evaluateWide (q : Request) : Except Field Evaluation :=
  match q.violation with
  | some f => .error f
  | none => .ok (evaluate (BitVec.ofInt 4 q.a) (BitVec.ofInt 4 q.b) (BitVec.ofInt 4 q.op))

end Sys2Proof.Machine
end

