-- ==== Sys2Proof/Machine/Table.lean ====
section
/-! DEFINITION. The truth table of a configuration (spec/44_truth_table.md R75 to R80, R84 to R86) and its ROM
(spec/20_memory.md R21 to R24, R26, R31; R87): constants of the design, not state (R107). -/

namespace Sys2Proof.Machine

/-- The opcode list `OPS` of a configuration, ascending (R76). -/
def opcodeList : Cfg → List Nibble
  | .arith3 => [0#4, 1#4, 2#4]
  | .arith4 => [0#4, 1#4, 2#4, 3#4]
  | .full16 => [0#4, 1#4, 2#4, 3#4, 4#4, 5#4, 6#4, 7#4, 8#4, 9#4, 10#4, 11#4, 12#4, 13#4, 14#4, 15#4]

/-- `NOPS`, the length of the opcode list (R15, R76). -/
def opcodeCount (cfg : Cfg) : Nat := (opcodeList cfg).length

/-- The row count `N = 256 * NOPS` (R78). -/
def rowCount (cfg : Cfg) : Nat := 256 * opcodeCount cfg

/-- Whether the configuration's schema has the three flag columns (R76). -/
def hasFlagColumns : Cfg → Bool
  | .arith3 => true
  | .arith4 => true
  | .full16 => false

/-- The row of a request under a configuration's schema (R75, R80): flags exist by opcode, columns by schema (R84). -/
def tableRow (cfg : Cfg) (a b op : Nibble) : Row :=
  let e := evaluate a b op
  { a := a, b := b, op := op, r := e.r, flags := if hasFlagColumns cfg then e.flags else none }

/-- The sixteen nibbles, ascending (R77). -/
def nibblesAscending : List Nibble :=
  [0#4, 1#4, 2#4, 3#4, 4#4, 5#4, 6#4, 7#4, 8#4, 9#4, 10#4, 11#4, 12#4, 13#4, 14#4, 15#4]

/-- The whole table in the fixed enumeration order: `A` ascending outer, `B` ascending middle, opcode ascending
inner (R77). -/
def tableRows (cfg : Cfg) : List Row :=
  nibblesAscending.flatMap fun a =>
    nibblesAscending.flatMap fun b =>
      (opcodeList cfg).map fun op => tableRow cfg a b op

/-- `row_index` (R79), defined for an opcode of the configuration's list; an opcode outside it has no row (R41). -/
def rowIndex (cfg : Cfg) (a b op : Nibble) : Option Nat :=
  if op ∈ opcodeList cfg then
    some ((16 * toUnsigned a + toUnsigned b) * opcodeCount cfg + toUnsigned op)
  else none

/-- `row_inputs` (R79), for `0 ≤ i < N`: the operands and the opcode of row `i`. -/
def rowInputs (cfg : Cfg) (i : Nat) : Nibble × Nibble × Nibble :=
  (BitVec.ofNat 4 (i / (16 * opcodeCount cfg)), BitVec.ofNat 4 (i / opcodeCount cfg % 16),
    BitVec.ofNat 4 (i % opcodeCount cfg))

/-- The output columns of a row packed into a data word, first column highest (R24): `R ‖ Z ‖ C ‖ V`, or `R` alone
where the row has no flag columns. -/
def packRow (r : Row) : RomWord :=
  match r.flags with
  | some f => .withFlags (r.r ++ BitVec.ofBool f.z ++ BitVec.ofBool f.c ++ BitVec.ofBool f.v)
  | none => .plain r.r

/-- The data word the ROM of `cfg` holds at row index `i` (R23). -/
def romContent (cfg : Cfg) (i : Nat) : RomWord :=
  let x := rowInputs cfg i
  packRow (tableRow cfg x.1 x.2.1 x.2.2)

/-- `MemRead(i, 1)` (R23, R87): the data word of row `i`, none where the address has no row; it neither wraps nor
returns a default (R26). -/
def memRead (cfg : Cfg) (addr : Int) : Option RomWord :=
  if 0 ≤ addr ∧ addr < (rowCount cfg : Int) then some (romContent cfg addr.toNat) else none

/-- The ROM of the instance, read in state `s`: it depends on the strap alone (R21, R27). -/
def State.memRead (s : State) (addr : Int) : Option RomWord := Sys2Proof.Machine.memRead s.cfg addr

/-- What the ROM gives for an address: the data word, or the refusal of an address without a row (R26). -/
def romReplyTo (cfg : Cfg) (addr : Int) : RomReply :=
  match memRead cfg addr with
  | some w => .data w
  | none => .refused

/-- A ROM lookup: the address at the input and the reply at the output; no side effect (R27). -/
def State.lookup (s : State) (addr : Int) : State :=
  { s with romAddr := some addr, romReply := some (romReplyTo s.cfg addr) }

/-- The check a consumer makes of an output (R86): the rows are exactly the configuration's table, any deviation
being a defect. -/
def acceptsTable (cfg : Cfg) (rows : List Row) : Bool := decide (rows = tableRows cfg)

/-- The verification the table is for (R87, spec/95 P7): a device under test, as the list of data words it gives
for the rows in order, agrees with the ROM at every address. -/
def agreesWithRom (cfg : Cfg) (words : List RomWord) : Bool :=
  decide (words = (List.range (rowCount cfg)).map (romContent cfg))

end Sys2Proof.Machine
end

