-- ==== Sys2Proof/Machine/Generator.lean ====
section
/-! DEFINITION. The sequential table generator (spec/44_truth_table.md R88): RST, STEP, the presented row, DONE, and
the failure of the sink (spec/60_exceptions.md R95, R99, R100). -/

namespace Sys2Proof.Machine

/-- The cursor after one STEP with `done = 0` (R88): opcode index fastest, then `b`, then `a`, then `done`. -/
def Cursor.advance (cfg : Cfg) (c : Cursor) : Cursor :=
  if c.k < opcodeCount cfg - 1 then { c with k := c.k + 1 }
  else if toUnsigned c.b < 15 then { c with k := 0, b := c.b + 1#4 }
  else if toUnsigned c.a < 15 then { c with k := 0, b := 0b0000#4, a := c.a + 1#4 }
  else { a := 0b0000#4, b := 0b0000#4, k := 0, done := true }

/-- The row of the table that a cursor presents while `done = 0` (R88). -/
def Cursor.row (cfg : Cfg) (c : Cursor) : Option Row :=
  if c.done then none else (opcodeList cfg)[c.k]?.map fun op => tableRow cfg c.a c.b op

/-- The number of rows taken when the cursor stands where it stands: its row's index (R79), all of them when
`done = 1`. -/
def Cursor.position (cfg : Cfg) (c : Cursor) : Nat :=
  if c.done then rowCount cfg else (16 * toUnsigned c.a + toUnsigned c.b) * opcodeCount cfg + c.k

/-- The presented row (R19, R88): none while `done = 1`, and none when the cursor carries no meaning (R99, R106). -/
def State.presentedRow (s : State) : Option Row :=
  match s.phase with
  | .running => s.cur.row s.cfg
  | .beforeRst | .aborted => none

/-- The pin `DONE = done` (R19, R88). A SinkFailure leaves the cursor as it is (R99), so an aborted generation shows
`DONE = 0`, not complete. Before the first RST the pin carries no value, a free value (R106, U12; log entry 4). -/
def State.doneOut (s : State) : Bool :=
  match s.phase with
  | .running | .aborted => s.cur.done
  | .beforeRst => Config.freeDone s.freeIdx

/-- An unspecified cursor (R106): a free value for each index. -/
def unspecifiedCursor (freeIdx : Nat) : Cursor :=
  let c := Config.freeCursor freeIdx
  { a := c.1, b := c.2.1, k := c.2.2.1, done := c.2.2.2 }

/-- RST (R88, R106): a new generation from the first row, whatever came before it; the sink begins again (R90, R100). -/
def State.rst (s : State) : State :=
  { s with cur := Cursor.first, phase := .running, sink := [] }

/-- STEP in a generation that began with RST (R88): the sink has taken the presented row and the cursor advances;
with `done = 1` nothing changes. -/
def State.stepRunning (s : State) : State :=
  if s.cur.done then s
  else
    { s with cur := s.cur.advance s.cfg, sink := s.sink ++ (s.cur.row s.cfg).toList }

/-- STEP (R88). Before the first RST the cursor stays unspecified and so does what the sink took (R106, U12); after
a SinkFailure no further row is emitted and the cursor keeps its value (R95, R99; log entry 7). -/
def State.stepGenerator (s : State) : State :=
  match s.phase with
  | .running => s.stepRunning
  | .beforeRst =>
    { s with cur := unspecifiedCursor s.freeIdx, sink := Config.freeSink s.freeIdx }
  | .aborted => s

/-- `SinkFailure` (R95, R99): the generation ends, the cursor keeps its value, and what the sink holds is
unspecified, a free value. A generation that is complete or already ended has no row left to refuse (log entry 7). -/
def State.failSink (s : State) : State :=
  match s.phase with
  | .running =>
    if s.cur.done then s else { s with phase := .aborted, sink := Config.freeSink s.freeIdx }
  | .beforeRst => { s with phase := .aborted, sink := Config.freeSink s.freeIdx }
  | .aborted => s

/-- The failure as it is surfaced to whoever started the generation (R95). -/
def State.sinkFailureReported (s : State) : Bool := decide (s.phase = .aborted)

end Sys2Proof.Machine
end

