-- ==== Sys2Proof/Machine/Serve.lean ====
section
/-! DEFINITION. What one input does to the block: a request to the evaluator (spec/30_encoding.md R36), the
generator's events (spec/44_truth_table.md R88), a ROM lookup (R87); each is one atomic step
(spec/70_reset_and_hazards.md R111). -/

namespace Sys2Proof.Machine

/-- A request at the inputs: decoded and executed; or refused, after which the block is as before and goes on (R93, R94, R100). -/
def serveRequest (q : Request) (s : State) : Host.Outcome State Fault Refusal :=
  match decodeRequest q with
  | .ok i => exec i (s.present q)
  | .error f => .next ((s.present q).refuseRequest f)

/-- One input served. -/
def serve (x : Input) (s : State) : Host.Outcome State Fault Refusal :=
  match x with
  | .request q => serveRequest q s
  | .rst => .next s.rst
  | .step => .next s.stepGenerator
  | .sinkFailure => .next s.failSink
  | .lookup addr => .next (s.lookup addr)

/-- One step: the input at the head of what the host presents is taken and served; with nothing presented nothing
happens (R110, R111). -/
def serveNext (s : State) : Host.Outcome State Fault Refusal :=
  match s.inbox with
  | [] => .next s
  | x :: rest => serve x (s.takeInput rest)

/-- The request of a table word of `nbits` bits presented before everything else the host presents. -/
def State.presentWord (s : State) (nbits w : Nat) : State :=
  { s with inbox := .request (requestOfNumber (w % 2 ^ nbits)) :: s.inbox }

end Sys2Proof.Machine
end

