-- ==== Sys2Proof/Machine/Step.lean ====
section
/-! DEFINITION. The step of the machine and the host's way to place a request (log entry 8). -/

namespace Sys2Proof.Machine

/-- One atomic step (spec/70_reset_and_hazards.md R111). -/
def step (s : State) : Host.Outcome State Fault Refusal := serveNext s

/-- The state in which the next step takes the request of the table word `w`. -/
def State.withFetchWord (s : State) (nbits w : Nat) : State := s.presentWord nbits w

end Sys2Proof.Machine
end

