-- ==== Sys2Proof/Machine/Text.lean ====
section
/-! DEFINITION. The text forms: a nibble as text (spec/40_conversion.md R50), the tab-delimited stream of a table
(spec/44_truth_table.md R81 to R83) and the request syntax (spec/30_encoding.md R43). -/

namespace Sys2Proof.Machine

/-- A bit as a single literal `0` or `1` (R50, R82). -/
def bitChar (b : Bool) : Char := if b then '1' else '0'

/-- `bin4(v)`: four characters, most significant bit first (R50). -/
def bin4 (v : Nibble) : List Char :=
  [bitChar (v.getLsbD 3), bitChar (v.getLsbD 2), bitChar (v.getLsbD 1), bitChar (v.getLsbD 0)]

/-- Fields separated by exactly one TAB, none after the last (R83). -/
def tabJoin : List (List Char) → List Char
  | [] => []
  | [f] => f
  | f :: g :: fs => f ++ '\t' :: tabJoin (g :: fs)

/-- A line: its fields and one LINE FEED (R83). -/
def textLine (fields : List (List Char)) : List Char := tabJoin fields ++ ['\n']

/-- The literal column names of a configuration's schema (R81). -/
def columnNames (cfg : Cfg) : List (List Char) :=
  [['A', '[', '4', ']'], ['B', '[', '4', ']'], ['C', '[', '4', ']'],
    ['O', 'u', 't', 'p', 'u', 't', '[', '4', ']']]
  ++ (if hasFlagColumns cfg then
        [['Z', 'e', 'r', 'o', '_', 'f', 'l', 'a', 'g'], ['C', 'a', 'r', 'r', 'y'],
          ['O', 'v', 'e', 'r', 'f', 'l', 'o', 'w', '_', 'f', 'l', 'a', 'g']]
      else [])

/-- The header line (R81). -/
def headerLine (cfg : Cfg) : List Char := textLine (columnNames cfg)

/-- The fields of a data line (R82). -/
def rowFields (r : Row) : List (List Char) :=
  [bin4 r.a, bin4 r.b, bin4 r.op, bin4 r.r]
  ++ (match r.flags with
      | some f => [[bitChar f.z], [bitChar f.c], [bitChar f.v]]
      | none => [])

/-- A data line (R82, R83). -/
def dataLine (r : Row) : List Char := textLine (rowFields r)

/-- The stream a consumer writes for the rows it took: the header, then one line a row (R83). -/
def streamOf (cfg : Cfg) (rows : List Row) : List Char := headerLine cfg ++ rows.flatMap dataLine

/-- The text stream of a configuration (R83). -/
def textStream (cfg : Cfg) : List Char := streamOf cfg (tableRows cfg)

/-- The stream as 7-bit ASCII codes (R83, passage G1). -/
def asciiBytes (text : List Char) : List (BitVec 8) := text.map fun c => BitVec.ofNat 8 c.toNat

/-- The mnemonics of the opcode map (R37, decision D7). -/
def mnemonic : Op → List Char
  | .add => ['A', 'D', 'D'] | .subab => ['S', 'U', 'B', 'A', 'B'] | .subba => ['S', 'U', 'B', 'B', 'A']
  | .mul => ['M', 'U', 'L'] | .and => ['A', 'N', 'D'] | .or => ['O', 'R'] | .xor => ['X', 'O', 'R']
  | .nand => ['N', 'A', 'N', 'D'] | .pass => ['P', 'A', 'S', 'S'] | .not => ['N', 'O', 'T']
  | .sll => ['S', 'L', 'L'] | .srl => ['S', 'R', 'L'] | .sla => ['S', 'L', 'A'] | .sra => ['S', 'R', 'A']
  | .rol => ['R', 'O', 'L'] | .ror => ['R', 'O', 'R']

/-- The sixteen operations in opcode order (R37). -/
def operations : List Op :=
  [.add, .subab, .subba, .mul, .and, .or, .xor, .nand, .pass, .not, .sll, .srl, .sla, .sra, .rol, .ror]

/-- A request in the two-operand form, operands as binary strings (R43). -/
def requestText (i : Instr) : List Char :=
  mnemonic i.operation ++ ' ' :: bin4 i.opA ++ ',' :: ' ' :: bin4 i.opB

/-- An outcome: `-> R Z C V`, or `-> R -` when there are no flags (R43). -/
def outcomeText (e : Evaluation) : List Char :=
  '-' :: '>' :: ' ' :: bin4 e.r
  ++ (match e.flags with
      | some f => [' ', bitChar f.z, ' ', bitChar f.c, ' ', bitChar f.v]
      | none => [' ', '-'])

/-- The value of a decimal or hexadecimal digit (R43 writes the letters as capitals). -/
def digitValue (c : Char) : Option Nat :=
  ['0', '1', '2', '3', '4', '5', '6', '7', '8', '9', 'A', 'B', 'C', 'D', 'E', 'F'].findIdx? (· == c)

/-- The number a digit string denotes in base `base`, `acc` being the digits read so far. -/
def readDigits (base : Nat) : Nat → List Char → Option Nat
  | acc, [] => some acc
  | acc, c :: cs =>
    match digitValue c with
    | some d => if d < base then readDigits base (acc * base + d) cs else none
    | none => none

/-- An operand as it is written (R43): a 4-character binary string, a `0x` hexadecimal digit, or an unsigned
decimal. A decimal outside 0 to 15 denotes its number, which `evaluate` then refuses (R93). DESIGN CHOICE (log entry
13): text of none of these forms (`01x1`, `-1`, `0x1F`) is no operand, and the line is then no request, since the spec
does not say which number, if any, malformed text gives (R43, R93). -/
def readOperand (t : List Char) : Option Nat :=
  match t with
  | [] => none
  | ['0', 'x', d] => readDigits 16 0 [d]
  | [b3, b2, b1, b0] =>
    match readDigits 2 0 [b3, b2, b1, b0] with
    | some n => some n
    | none => readDigits 10 0 [b3, b2, b1, b0]
  | _ => readDigits 10 0 t

/-- The text before the first `sep` and, if there is one, the text after it. -/
def cutAt (sep : Char) : List Char → List Char × Option (List Char)
  | [] => ([], none)
  | c :: cs =>
    if c == sep then ([], some cs)
    else
      let x := cutAt sep cs
      (c :: x.1, x.2)

/-- Text without one leading space. -/
def dropSpace : List Char → List Char
  | ' ' :: cs => cs
  | cs => cs

/-- A request read from its text (R43): `MNEMONIC a, b` for all sixteen opcodes, `MNEMONIC a` for opcodes 8 to 15
only, `B` then being `0000`. Text of another form is no request (DESIGN CHOICE, log entry 13). -/
def readRequest (t : List Char) : Option Request :=
  let x := cutAt ' ' t
  match operations.find? (fun o => mnemonic o == x.1), x.2 with
  | some o, some operands =>
    let op : Int := ((nibbleOfOp o).toNat : Int)
    let y := cutAt ',' operands
    match readOperand y.1, y.2 with
    | some a, some second => (readOperand (dropSpace second)).map fun b => { a := (a : Int), b := (b : Int), op := op }
    | some a, none => if 8 ≤ op then some { a := (a : Int), b := 0, op := op } else none
    | none, _ => none
  | _, _ => none

end Sys2Proof.Machine
end

