-- ==== Sys2Proof/Safety.lean ====
section
/-! DEFINITION. What a safe run is, in the terms the claims use: the invariant of the block and the outcome of a
whole generation. -/

namespace Sys2Proof.Machine

/-- The cursor of configuration `cfg` is legal (spec/10_state.md R15): `k` indexes the opcode list, and the end of
the enumeration is reached only at the cursor of R88's last STEP. -/
def Cursor.Legal (cfg : Cfg) (c : Cursor) : Prop :=
  c.k < opcodeCount cfg ∧ (c.done = true → c.a = 0b0000#4 ∧ c.b = 0b0000#4 ∧ c.k = 0)

/-- The generator's invariant: in a generation that began with RST the cursor is legal and the sink holds exactly
the rows before it, in enumeration order (spec/44_truth_table.md R77, R88, R89). -/
def GeneratorInv (s : State) : Prop :=
  s.phase = .running → s.cur.Legal s.cfg ∧ s.sink = (tableRows s.cfg).take (s.cur.position s.cfg)

/-- The evaluator's outputs are at every instant the function `evaluate` of its present inputs
(spec/10_state.md R16). -/
def EvaluatorInv (s : State) : Prop :=
  s.answer = s.request.map fun q =>
    match evaluateWide q with
    | .ok e => .evaluated e
    | .error f => .domainViolation f

/-- The ROM's output is a function of its present address (spec/20_memory.md R23, R27). -/
def RomInv (s : State) : Prop := s.romReply = s.romAddr.map (romReplyTo s.cfg)

/-- The invariant of the block. -/
def Inv (s : State) : Prop := GeneratorInv s ∧ EvaluatorInv s ∧ RomInv s

/-- A complete generation (R86, R88): `DONE = 1` and the sink holds the whole table. -/
def GenerationComplete (s : State) : Prop :=
  s.phase = .running ∧ s.cur.done = true ∧ s.sink = tableRows s.cfg

/-- What the evaluator leaves alone when it serves a request: everything but its outputs (spec/10_state.md R8), the
generator's outputs and every word of the ROM among it (spec/60_exceptions.md R104). -/
structure OnlyAnswerChanges (s t : State) : Prop where
  cfg          : t.cfg = s.cfg
  cur          : t.cur = s.cur
  phase        : t.phase = s.phase
  inbox        : t.inbox = s.inbox
  request      : t.request = s.request
  romAddr      : t.romAddr = s.romAddr
  romReply     : t.romReply = s.romReply
  sink         : t.sink = s.sink
  freeIdx      : t.freeIdx = s.freeIdx
  presentedRow : t.presentedRow = s.presentedRow
  doneOut      : t.doneOut = s.doneOut
  memRead      : ∀ addr : Int, t.memRead addr = s.memRead addr

/-- Instruction `i` runs in state `s` to its completion: it answers the evaluation `e` and changes nothing else. -/
def Answers (i : Instr) (s : State) (e : Evaluation) : Prop :=
  ∃ t, exec i s = .next t ∧ t.answer = some (.evaluated e) ∧ OnlyAnswerChanges s t

end Sys2Proof.Machine
end

