-- ==== Sys2Proof/Certificates/Slice0/Obligations.lean ====
section
/-! DEFINITION. The statements about the model, each formalising rules of spec/; nothing is proved here. `Answers i s
e` says that `exec i s` IS a next state whose answer is `e` and in which nothing else has changed (Safety.lean). -/

open Sys2Proof Sys2Proof.Machine

/-! The sixteen operations: each runs in every state, on every pair of operands, to the answer its rule gives, and
changes nothing but the answer. -/

/-- R53: ADD. -/
def Obligations.AddGivesSumCarryOverflowZero : Prop :=
  ∀ (a b : Nibble) (s : State), ∃ (r : Nibble) (z c v : Bool),
    Answers (.add a b) s { r := r, flags := some { z := z, c := c, v := v } }
      ∧ toUnsigned r = (toUnsigned a + toUnsigned b) % 16
      ∧ (c = true ↔ 15 < toUnsigned a + toUnsigned b)
      ∧ (v = true ↔ signBit a = signBit b ∧ signBit r ≠ signBit a)
      ∧ (z = true ↔ r = 0b0000#4)

/-- R54: SUBAB, Carry being the borrow. -/
def Obligations.SubabGivesDifferenceBorrowOverflowZero : Prop :=
  ∀ (a b : Nibble) (s : State), ∃ (r : Nibble) (z c v : Bool),
    Answers (.subab a b) s { r := r, flags := some { z := z, c := c, v := v } }
      ∧ (toUnsigned a < toUnsigned b → c = true ∧ toUnsigned r = toUnsigned a + 16 - toUnsigned b)
      ∧ (toUnsigned b ≤ toUnsigned a → c = false ∧ toUnsigned r = toUnsigned a - toUnsigned b)
      ∧ (v = true ↔ (0 ≤ toSigned a ∧ toSigned b < 0 ∧ toSigned r < 0)
          ∨ (toSigned a < 0 ∧ 0 ≤ toSigned b ∧ 0 ≤ toSigned r))
      ∧ (z = true ↔ r = 0b0000#4)

/-- R55: SUBBA, the mirror of SUBAB with the operands swapped, result and all three flags. -/
def Obligations.SubbaGivesReverseDifference : Prop :=
  ∀ (a b : Nibble) (s : State), ∃ (r : Nibble) (z c v : Bool),
    Answers (.subba a b) s { r := r, flags := some { z := z, c := c, v := v } }
      ∧ Answers (.subab b a) s { r := r, flags := some { z := z, c := c, v := v } }
      ∧ (toUnsigned b < toUnsigned a → c = true ∧ toUnsigned r = toUnsigned b + 16 - toUnsigned a)
      ∧ (toUnsigned a ≤ toUnsigned b → c = false ∧ toUnsigned r = toUnsigned b - toUnsigned a)
      ∧ (v = true ↔ (0 ≤ toSigned b ∧ toSigned a < 0 ∧ toSigned r < 0)
          ∨ (toSigned b < 0 ∧ 0 ≤ toSigned a ∧ 0 ≤ toSigned r))
      ∧ (z = true ↔ r = 0b0000#4)

/-- R56: MUL, the signed product truncated to a nibble, Carry always 0. -/
def Obligations.MulGivesTruncatedSignedProduct : Prop :=
  ∀ (a b : Nibble) (s : State), ∃ (r : Nibble) (z v : Bool),
    Answers (.mul a b) s { r := r, flags := some { z := z, c := false, v := v } }
      ∧ (toUnsigned r : Int) = (toSigned a * toSigned b) % 16
      ∧ (v = true ↔ toSigned r ≠ toSigned a * toSigned b)
      ∧ (z = true ↔ r = 0b0000#4)

/-- R62: AND, bit by bit, no flags. -/
def Obligations.AndIsBitwise : Prop :=
  ∀ (a b : Nibble) (s : State), ∃ r : Nibble, Answers (.and a b) s { r := r, flags := none }
    ∧ ∀ i : Nat, i < 4 → r.getLsbD i = (a.getLsbD i && b.getLsbD i)

/-- R63: OR, bit by bit, no flags. -/
def Obligations.OrIsBitwise : Prop :=
  ∀ (a b : Nibble) (s : State), ∃ r : Nibble, Answers (.or a b) s { r := r, flags := none }
    ∧ ∀ i : Nat, i < 4 → r.getLsbD i = (a.getLsbD i || b.getLsbD i)

/-- R64: XOR, bit by bit (1 iff the two bits differ), no flags. -/
def Obligations.XorIsBitwise : Prop :=
  ∀ (a b : Nibble) (s : State), ∃ r : Nibble, Answers (.xor a b) s { r := r, flags := none }
    ∧ ∀ i : Nat, i < 4 → (r.getLsbD i = true ↔ a.getLsbD i ≠ b.getLsbD i)

/-- R65: NAND, bit by bit, the complement masked to 4 bits, no flags. -/
def Obligations.NandIsComplementedAnd : Prop :=
  ∀ (a b : Nibble) (s : State), ∃ r : Nibble, Answers (.nand a b) s { r := r, flags := none }
    ∧ (∀ i : Nat, i < 4 → r.getLsbD i = !(a.getLsbD i && b.getLsbD i))
    ∧ toUnsigned r = 15 - toUnsigned (a &&& b)

/-- R66: PASS gives `A` unchanged, whatever `B`; no flags. -/
def Obligations.PassGivesOperandUnchanged : Prop :=
  ∀ (a b : Nibble) (s : State), Answers (.pass a b) s { r := a, flags := none }

/-- R67: NOT flips all four bits of `A`, whatever `B`; no flags. The signed form `s(R) = -s(A) - 1` is the spec's own
inference under R67 (from R48), not the document's sentence. -/
def Obligations.NotFlipsAllFourBits : Prop :=
  ∀ (a b : Nibble) (s : State), ∃ r : Nibble, Answers (.not a b) s { r := r, flags := none }
    ∧ (∀ i : Nat, i < 4 → r.getLsbD i = !a.getLsbD i)
    ∧ toUnsigned r = 15 - toUnsigned a ∧ toSigned r = -toSigned a - 1

/-- R69: SLL drops `A[3]` and fills with 0 from the right, whatever `B`; no flags. -/
def Obligations.SllDoublesAndDropsTopBit : Prop :=
  ∀ (a b : Nibble) (s : State), ∃ r : Nibble, Answers (.sll a b) s { r := r, flags := none }
    ∧ toUnsigned r = 2 * toUnsigned a % 16
    ∧ r.getLsbD 3 = a.getLsbD 2 ∧ r.getLsbD 2 = a.getLsbD 1 ∧ r.getLsbD 1 = a.getLsbD 0 ∧ r.getLsbD 0 = false

/-- R70: SRL drops `A[0]` and fills with 0 from the left, whatever `B`; no flags. -/
def Obligations.SrlHalvesUnsignedView : Prop :=
  ∀ (a b : Nibble) (s : State), ∃ r : Nibble, Answers (.srl a b) s { r := r, flags := none }
    ∧ toUnsigned r = toUnsigned a / 2
    ∧ r.getLsbD 3 = false ∧ r.getLsbD 2 = a.getLsbD 3 ∧ r.getLsbD 1 = a.getLsbD 2 ∧ r.getLsbD 0 = a.getLsbD 1

/-- R71, R39: SLA is SLL under a second opcode: the same answer in every state, and it does not keep the sign. That
the two have different packed words is about the word of decision D6 (log entry 14), not R39's or R71's. -/
def Obligations.SlaIsSllUnderSecondOpcode : Prop :=
  ∀ (a b : Nibble) (s : State), ∃ r : Nibble, Answers (.sla a b) s { r := r, flags := none }
    ∧ Answers (.sll a b) s { r := r, flags := none }
    ∧ r.getLsbD 3 = a.getLsbD 2 ∧ r.getLsbD 2 = a.getLsbD 1 ∧ r.getLsbD 1 = a.getLsbD 0 ∧ r.getLsbD 0 = false
    ∧ encode (.sla a b) ≠ encode (.sll a b)
    ∧ ∃ i j : Nat, i ≠ j ∧ (tableRows .full16)[i]? = some { a := a, b := b, op := 10#4, r := r, flags := none }
        ∧ (tableRows .full16)[j]? = some { a := a, b := b, op := 12#4, r := r, flags := none }

/-- R72: SRA halves the signed value rounding toward minus infinity, whatever `B`; no flags; it differs from SRL
exactly when the sign bit is 1. -/
def Obligations.SraHalvesSignedView : Prop :=
  ∀ (a b : Nibble) (s : State), ∃ r : Nibble, Answers (.sra a b) s { r := r, flags := none }
    ∧ 2 * toSigned r ≤ toSigned a ∧ toSigned a ≤ 2 * toSigned r + 1
    ∧ r.getLsbD 3 = a.getLsbD 3 ∧ r.getLsbD 2 = a.getLsbD 3 ∧ r.getLsbD 1 = a.getLsbD 2 ∧ r.getLsbD 0 = a.getLsbD 1
    ∧ (signBit a = true ↔ ¬ Answers (.srl a b) s { r := r, flags := none })

/-- R73: ROL, the MSB wrapping to the LSB, whatever `B`; no flags. -/
def Obligations.RolWrapsTopBit : Prop :=
  ∀ (a b : Nibble) (s : State), ∃ r : Nibble, Answers (.rol a b) s { r := r, flags := none }
    ∧ toUnsigned r = 2 * toUnsigned a % 16 + toUnsigned a / 8
    ∧ r.getLsbD 3 = a.getLsbD 2 ∧ r.getLsbD 2 = a.getLsbD 1 ∧ r.getLsbD 1 = a.getLsbD 0 ∧ r.getLsbD 0 = a.getLsbD 3

/-- R74: ROR, the LSB wrapping to the MSB, whatever `B`; no flags; and the document's round-trip law, ROL then ROR.
The other direction, ROR then ROL, is the spec's own inference under R74 (from R73). -/
def Obligations.RorWrapsBottomBit : Prop :=
  ∀ (a b : Nibble) (s : State), ∃ r : Nibble, Answers (.ror a b) s { r := r, flags := none }
    ∧ toUnsigned r = toUnsigned a / 2 + 8 * (toUnsigned a % 2)
    ∧ r.getLsbD 3 = a.getLsbD 0 ∧ r.getLsbD 2 = a.getLsbD 3 ∧ r.getLsbD 1 = a.getLsbD 2 ∧ r.getLsbD 0 = a.getLsbD 1
    ∧ Answers (.rol r b) s { r := a, flags := none }
    ∧ ∃ l : Nibble, Answers (.rol a b) s { r := l, flags := none } ∧ Answers (.ror l b) s { r := a, flags := none }

/-! Laws across the operations. -/

/-- R51: the Zero flag's one rule, over the whole arithmetic family, in every state; and a result that wrapped to
`0000` sets it although the exact value is not zero. -/
def Obligations.ZeroFlagTestsWrappedResult : Prop :=
  (∀ (i : Instr) (s : State),
    i.operation = .add ∨ i.operation = .subab ∨ i.operation = .subba ∨ i.operation = .mul →
      ∃ (r : Nibble) (f : Flags), Answers i s { r := r, flags := some f } ∧ (f.z = true ↔ r = 0b0000#4))
  ∧ (∀ s : State,
      (∃ f : Flags, Answers (.add 0b1000#4 0b1000#4) s { r := 0b0000#4, flags := some f } ∧ f.z = true)
      ∧ (∃ f : Flags, Answers (.mul 0b0100#4 0b0100#4) s { r := 0b0000#4, flags := some f } ∧ f.z = true))

/-- R12: flags exist for opcodes 0 to 3 and are absent, not zero, for opcodes 4 to 15. That the evaluator gives them
under every configuration, and that a table shows them only where its schema has the columns, so that FULL16's rows
record none (R84), is the spec's decision D3 (log entry 14). -/
def Obligations.FlagsExistExactlyForArithmeticOpcodes : Prop :=
  ∀ (i : Instr) (s : State), ∃ (r : Nibble) (f : Option Flags), Answers i s { r := r, flags := f }
    ∧ ((nibbleOfOp i.operation).toNat ≤ 3 → ∃ g : Flags, f = some g)
    ∧ (4 ≤ (nibbleOfOp i.operation).toNat → f = none)
    ∧ (∀ cfg : Cfg, (tableRow cfg i.opA i.opB (nibbleOfOp i.operation)).flags = if cfg = .full16 then none else f)

/-- The equivalent forms of the arithmetic flags that the spec derives (under R53, R54, R56): Overflow says that the
exact signed result does not fit, and the result is exact in each view when the flag of that view is 0. -/
def Obligations.ArithmeticFlagsReportExactResult : Prop :=
  ∀ (a b : Nibble) (s : State),
    (∃ (r : Nibble) (f : Flags), Answers (.add a b) s { r := r, flags := some f }
      ∧ (f.v = true ↔ toSigned a + toSigned b < -8 ∨ 7 < toSigned a + toSigned b)
      ∧ (f.v = false → toSigned r = toSigned a + toSigned b)
      ∧ (toUnsigned r : Int) = (toUnsigned a : Int) + toUnsigned b - 16 * f.c.toNat)
    ∧ (∃ (r : Nibble) (f : Flags), Answers (.subab a b) s { r := r, flags := some f }
      ∧ (f.v = true ↔ toSigned a - toSigned b < -8 ∨ 7 < toSigned a - toSigned b)
      ∧ (f.v = false → toSigned r = toSigned a - toSigned b)
      ∧ (toUnsigned r : Int) = (toUnsigned a : Int) - toUnsigned b + 16 * f.c.toNat
      ∧ (f.c = true ↔ toUnsigned a + toUnsigned (onesComplement b) + 1 ≤ 15))
    ∧ (∃ (r : Nibble) (f : Flags), Answers (.mul a b) s { r := r, flags := some f }
      ∧ (f.v = true ↔ toSigned a * toSigned b < -8 ∨ 7 < toSigned a * toSigned b)
      ∧ toUnsigned r = toUnsigned a * toUnsigned b % 16)

/-- R59 item 2 and item 4, with MUL's commutativity: ADD and MUL do not depend on the order of their operands, and
an ADD of operands of different sign never overflows. -/
def Obligations.AdditionCommutesAndMixedSignsNeverOverflow : Prop :=
  ∀ (a b : Nibble) (s : State),
    exec (.add a b) s = exec (.add b a) s ∧ exec (.mul a b) s = exec (.mul b a) s
      ∧ (signBit a ≠ signBit b →
          ∃ (r : Nibble) (f : Flags), Answers (.add a b) s { r := r, flags := some f } ∧ f.v = false)

/-- R59 item 3, in the exact form the spec derives (conflict C7): how the two subtractions of one operand pair are
related. -/
def Obligations.SubtractionsOfOnePairAreRelated : Prop :=
  ∀ (a b : Nibble) (s : State), ∃ (r1 r2 : Nibble) (f1 f2 : Flags),
    Answers (.subab a b) s { r := r1, flags := some f1 } ∧ Answers (.subba a b) s { r := r2, flags := some f2 }
      ∧ (toUnsigned r1 + toUnsigned r2) % 16 = 0
      ∧ (a ≠ b → f1.c = !f2.c) ∧ (a = b → f1.c = false ∧ f2.c = false)
      ∧ (f1.v ≠ f2.v ↔ a ^^^ b = 0b1000#4)
      ∧ (a ^^^ b = 0b1000#4 → (f1.v = true ↔ 0 ≤ toSigned a))

/-- R18: opcodes 8 to 15 do not depend on `B`; `B` is still an input, refused when it is not a nibble, and has a
table row for each of its values. -/
def Obligations.OneOperandOperationsIgnoreB : Prop :=
  ∀ (o : Op) (a b1 b2 : Nibble) (s : State), 8 ≤ (nibbleOfOp o).toNat →
    exec (instrOfOp o a b1) s = exec (instrOfOp o a b2) s
      ∧ (∀ n : Int, n < 0 ∨ 15 < n →
          decodeRequest { a := (a.toNat : Int), b := n, op := ((nibbleOfOp o).toNat : Int) } = .error .B)
      ∧ (∃ i : Nat, (tableRows .full16)[i]? = some (tableRow .full16 a b1 (nibbleOfOp o)))

/-- The host's composition of an 8-bit addition from three 4-bit requests (spec/95 program P2, derived from R53). -/
def Obligations.EightBitAdditionFromThreeRequests : Prop :=
  ∀ (xh xl yh yl : Nibble) (s : State), ∃ (lo h0 hi : Nibble) (fl f0 fh : Flags),
    Answers (.add xl yl) s { r := lo, flags := some fl }
      ∧ Answers (.add xh yh) s { r := h0, flags := some f0 }
      ∧ Answers (.add h0 (BitVec.ofNat 4 fl.c.toNat)) s { r := hi, flags := some fh }
      ∧ (xh ++ xl).toNat + (yh ++ yl).toNat = (hi ++ lo).toNat + 256 * (f0.c || fh.c).toNat
      ∧ ((f0.v != fh.v) = true ↔
          (xh ++ xl).toInt + (yh ++ yl).toInt < -128 ∨ 127 < (xh ++ xl).toInt + (yh ++ yl).toInt)

/-- R45, R46, R49: the two views of a nibble and its sign bit. -/
def Obligations.NibbleViewsAreWeightedSums : Prop :=
  ∀ v : Nibble,
    toUnsigned v = 8 * (v.getLsbD 3).toNat + 4 * (v.getLsbD 2).toNat + 2 * (v.getLsbD 1).toNat + (v.getLsbD 0).toNat
      ∧ toSigned v = (if v.getLsbD 3 then (toUnsigned v : Int) - 16 else toUnsigned v)
      ∧ toSigned v = -8 * ((v.getLsbD 3).toNat : Int) + 4 * (v.getLsbD 2).toNat + 2 * (v.getLsbD 1).toNat
          + (v.getLsbD 0).toNat
      ∧ (signBit v = true ↔ 8 ≤ toUnsigned v) ∧ (signBit v = true ↔ toSigned v < 0)
      ∧ toUnsigned v ≤ 15 ∧ -8 ≤ toSigned v ∧ toSigned v ≤ 7
      ∧ (∀ w : Nibble, toUnsigned v = toUnsigned w → v = w)

/-- R47, R48: `from_signed` of any integer is that integer mod 16; `not4` flips the four bits and gives `15 - u`.
That `from_signed` inverts both views and is exact in the signed view exactly on -8 to 7 is the spec's own inference
under R47 (from R46). -/
def Obligations.FromSignedWrapsEveryInteger : Prop :=
  (∀ n : Int, (toUnsigned (fromSigned n) : Int) = n % 16 ∧ (toSigned (fromSigned n) = n ↔ -8 ≤ n ∧ n ≤ 7))
  ∧ (∀ v : Nibble, fromSigned (toSigned v) = v ∧ fromSigned (toUnsigned v) = v
      ∧ (∀ i : Nat, i < 4 → (onesComplement v).getLsbD i = !v.getLsbD i)
      ∧ toUnsigned (onesComplement v) = 15 - toUnsigned v ∧ onesComplement (onesComplement v) = v)

/-! The evaluator as a whole, and its boundary. -/

/-- R8: whatever two states the block is in, and whatever was requested before, equal requests give equal answers, and
nothing but the answer is written (the request is taken from what the host presents to the evaluator's inputs). That a
request outside the domain, which R94 calls a refusal, is a next state with an answer too is the model's choice, log
entry 2. -/
def Obligations.EvaluatorHasNoMemory : Prop :=
  ∀ (q : Request) (s1 s2 : State) (rest1 rest2 : List Input),
    s1.inbox = .request q :: rest1 → s2.inbox = .request q :: rest2 →
      ∃ answer : Answer,
        step s1 = .next { s1 with inbox := rest1, freeIdx := s1.freeIdx + 1, request := some q, answer := some answer }
          ∧ step s2 = .next { s2 with inbox := rest2, freeIdx := s2.freeIdx + 1, request := some q, answer := some answer }

/-- R36: a request that the host presents is answered by `evaluate`: its domain checks first, then the operation of
its opcode; one step answers it. The order of the checks is the spec's decision D12; that the refusal of a request
outside the domain (R94) is an answer in a next state is the model's choice, log entry 2. -/
def Obligations.RequestStepAnswersEvaluate : Prop :=
  ∀ (s : State) (q : Request) (rest : List Input), s.inbox = .request q :: rest →
    ∃ t, step s = .next t ∧ t.inbox = rest ∧ t.request = some q
      ∧ t.cur = s.cur ∧ t.phase = s.phase ∧ t.sink = s.sink ∧ t.cfg = s.cfg
      ∧ (∀ e, evaluateWide q = .ok e → t.answer = some (.evaluated e))
      ∧ (∀ f, evaluateWide q = .error f → t.answer = some (.domainViolation f))

/-- When the request at the head of what the host presents decodes to the instruction `i`, the step is `exec` of `i`
in the state that has taken the request to the evaluator's inputs. -/
def Obligations.StepRunsDecodedInstruction : Prop :=
  ∀ (s : State) (q : Request) (rest : List Input) (i : Instr),
    s.inbox = .request q :: rest → decodeRequest q = .ok i →
      step s = exec i { s with inbox := rest, freeIdx := s.freeIdx + 1, request := some q }

/-- R93, R94: a request with an input that is not a nibble is refused, whatever its opcode: no result, no flags, the
input named, nothing else changed. The order `A`, `B`, `OP` (R98) and the form of the refusal are the spec's decision
D12; that the machine goes on is log entry 2. -/
def Obligations.OutOfDomainRequestIsRefused : Prop :=
  ∀ (s : State) (q : Request) (rest : List Input), s.inbox = .request q :: rest →
    (¬ (0 ≤ q.a ∧ q.a ≤ 15) ∨ ¬ (0 ≤ q.b ∧ q.b ≤ 15) ∨ ¬ (0 ≤ q.op ∧ q.op ≤ 15)) →
      ∃ f, step s = .next { s with inbox := rest, freeIdx := s.freeIdx + 1, request := some q, answer := some (.domainViolation f) }
        ∧ (f = .A ↔ ¬ (0 ≤ q.a ∧ q.a ≤ 15))
        ∧ (f = .B ↔ (0 ≤ q.a ∧ q.a ≤ 15) ∧ ¬ (0 ≤ q.b ∧ q.b ≤ 15))
        ∧ (f = .OP ↔ (0 ≤ q.a ∧ q.a ≤ 15) ∧ (0 ≤ q.b ∧ q.b ≤ 15))

/-- After a `DomainViolation` the next request is answered normally (R100, decision D12; log entry 2). -/
def Obligations.RequestAfterRefusalIsAnswered : Prop :=
  ∀ (s : State) (q : Request) (i : Instr) (rest : List Input), q.wf = false →
    s.inbox = .request q :: .request (requestOfInstr i) :: rest →
      ∃ t : State, core.run 2 s = .next t ∧ t.inbox = rest
        ∧ t.answer = some (.evaluated (evaluate i.opA i.opB (nibbleOfOp i.operation)))

/-- Every request within the domain has its result (R96). That NO step stops is the model's choice where R94 and R26
speak of a refusal: a refused request and a refused lookup are next states (log entry 2), and so is a step with nothing
presented (log entry 8). -/
def Obligations.NoStepStops : Prop :=
  (∀ s : State, ∃ t, step s = .next t) ∧ (∀ (i : Instr) (s : State), ∃ e, Answers i s e)

/-- The evaluator's pins (R16, R17, decisions D4, D5; log entry 3): `Y` is the result, `FV` says that the opcode's two
high bits are 0, and only then do `Z`, `C`, `V` carry the tuple. -/
def Obligations.PinsCarryResultAndValidFlags : Prop :=
  ∀ (i : Instr) (s : State), ∃ (t : State) (p : Pins) (e : Evaluation),
    exec i s = .next t ∧ t.answer = some (.evaluated e) ∧ t.pins = some p ∧ p.y = e.r
      ∧ (p.fv = true ↔ (nibbleOfOp i.operation).getLsbD 3 = false ∧ (nibbleOfOp i.operation).getLsbD 2 = false)
      ∧ (p.fv = true → e.flags = some { z := p.z, c := p.c, v := p.v })

/-! Encoding. -/

/-- Decoding and encoding agree: on packed words in both directions, and at the wider boundary, where the requests
that decode are exactly the encoded ones. -/
def Obligations.DecodeEncodeAgree : Prop :=
  (∀ i : Instr, decodeW12 (encode i) = i) ∧ (∀ w : W12, encode (decodeW12 w) = w)
    ∧ (∀ (q : Request) (i : Instr), decodeRequest q = .ok i ↔ q = requestOfInstr i)

/-- The packed word is the number `256*u(A) + 16*u(B) + u(OP)` and the request's row index in the sixteen-opcode
table (R34, decision D6); read back as a table word it decodes to its request, and placed as the next one it runs. -/
def Obligations.PackedWordNumbersItsRequest : Prop :=
  ∀ i : Instr,
    (encode i).toNat = 256 * toUnsigned i.opA + 16 * toUnsigned i.opB + toUnsigned (nibbleOfOp i.operation)
      ∧ rowIndex .full16 i.opA i.opB (nibbleOfOp i.operation) = some (encode i).toNat
      ∧ decodeTableWord 12 (encode i).toNat = some i
      ∧ decodeTableWord 16 (encode i).toNat = some i
      ∧ ∀ s : State, step (s.withFetchWord 12 (encode i).toNat)
          = exec i { s with freeIdx := s.freeIdx + 1, request := some (requestOfInstr i) }

/-- Words written out from the encodings of spec/30 R34, R37, bit by bit. -/
def Obligations.SampleWordsDecode : Prop :=
  decodeW12 0b0111_0001_0000#12 = .add 7#4 1#4
    ∧ decodeW12 0b1000_0001_0001#12 = .subab 8#4 1#4
    ∧ decodeW12 0b0101_0011_0010#12 = .subba 5#4 3#4
    ∧ decodeW12 0b0100_0100_0011#12 = .mul 4#4 4#4
    ∧ decodeW12 0b1100_1010_0100#12 = .and 12#4 10#4
    ∧ decodeW12 0b1100_1010_0111#12 = .nand 12#4 10#4
    ∧ decodeW12 0b1011_0110_1000#12 = .pass 11#4 6#4
    ∧ decodeW12 0b1100_0011_1010#12 = .sll 12#4 3#4
    ∧ decodeW12 0b1001_1001_1101#12 = .sra 9#4 9#4
    ∧ decodeW12 0b0001_0111_1111#12 = .ror 1#4 7#4

/-- R40: no opcode value is undefined: each selects exactly one operation and each operation is selected by
exactly one value. -/
def Obligations.EveryOpcodeSelectsOneOperation : Prop :=
  (∀ op : Nibble, nibbleOfOp (opOfNibble op) = op) ∧ (∀ o : Op, opOfNibble (nibbleOfOp o) = o)

/-! The truth table. -/

/-- R77: the enumeration order, `A` outer, `B` middle, opcode inner, all ascending; the first row and the last. -/
def Obligations.TableRowsStandInEnumerationOrder : Prop :=
  (∀ (cfg : Cfg) (i j : Nat) (x y : Row),
    i < j → (tableRows cfg)[i]? = some x → (tableRows cfg)[j]? = some y →
      x.a.toNat < y.a.toNat
        ∨ (x.a = y.a ∧ x.b.toNat < y.b.toNat)
        ∨ (x.a = y.a ∧ x.b = y.b ∧ x.op.toNat < y.op.toNat))
  ∧ (∀ cfg : Cfg, (tableRows cfg).head? = some (tableRow cfg 0#4 0#4 0#4))
  ∧ (tableRows .arith3).getLast? = some (tableRow .arith3 15#4 15#4 2#4)
  ∧ (tableRows .arith4).getLast? = some (tableRow .arith4 15#4 15#4 3#4)
  ∧ (tableRows .full16).getLast? = some (tableRow .full16 15#4 15#4 15#4)

/-- R78: the row count is the product of the domain sizes, and every request of the domain has exactly one row. -/
def Obligations.TableHasEachRequestOnce : Prop :=
  (∀ cfg : Cfg, (tableRows cfg).length = 16 * 16 * (opcodeList cfg).length)
  ∧ (tableRows .arith3).length = 768 ∧ (tableRows .arith4).length = 1024 ∧ (tableRows .full16).length = 4096
  ∧ (∀ (cfg : Cfg) (a b op : Nibble),
      ((tableRows cfg).filter fun x => x.a == a && x.b == b && x.op == op)
        = if op ∈ opcodeList cfg then [tableRow cfg a b op] else [])

/-- The row index and its inverse (R79, which the spec derives from R77): the indices of a configuration's domain are
exactly 0 to `N - 1`, and the table has the row at its index. -/
def Obligations.RowIndexNumbersTheTable : Prop :=
  (∀ (cfg : Cfg) (a b op : Nibble) (i : Nat), rowIndex cfg a b op = some i →
    i < rowCount cfg ∧ rowInputs cfg i = (a, b, op) ∧ (tableRows cfg)[i]? = some (tableRow cfg a b op))
  ∧ (∀ (cfg : Cfg) (i : Nat), i < rowCount cfg → ∃ a b op, rowIndex cfg a b op = some i)
  ∧ (∀ (cfg : Cfg) (a b op : Nibble), rowIndex cfg a b op = none ↔ op ∉ opcodeList cfg)

/-- R80: the content of a row is what the machine answers to the row's request, with the flag columns of the schema;
under the two arithmetic configurations every row has its three flags. -/
def Obligations.RowContentIsTheMachinesAnswer : Prop :=
  ∀ (cfg : Cfg) (i : Nat) (x : Row), (tableRows cfg)[i]? = some x →
    (x.a, x.b, x.op) = rowInputs cfg i
    ∧ (∀ s : State, ∃ e, Answers (instrOfOp (opOfNibble x.op) x.a x.b) s e ∧ x.r = e.r
        ∧ (cfg ≠ .full16 → x.flags = e.flags ∧ x.flags ≠ none)
        ∧ (cfg = .full16 → x.flags = none))

/-- The `R` column of the sixteen-opcode table for opcodes 0 to 3 is the `Output` column of the four-opcode table
(R84, which the spec derives from R80; that opcode 3 is MUL there is decision D2, log entry 9). -/
def Obligations.Full16AgreesWithArith4OnResults : Prop :=
  ∀ (i : Nat) (x : Row), (tableRows .arith4)[i]? = some x →
    ∃ j : Nat, (tableRows .full16)[j]? = some { a := x.a, b := x.b, op := x.op, r := x.r, flags := none }

/-- The ROM holds the table (R22, R24, R26, R87, decisions D8, D9): the word at the address `i` has the output columns
of row `i`, first column highest; an address without a row is refused. -/
def Obligations.RomHoldsTheTable : Prop :=
  (∀ (s : State) (i : Nat) (x : Row), (tableRows s.cfg)[i]? = some x →
    (∀ f, x.flags = some f → ∃ d : BitVec 7, s.memRead (i : Int) = some (.withFlags d)
        ∧ d.extractLsb' 3 4 = x.r ∧ d.getLsbD 2 = f.z ∧ d.getLsbD 1 = f.c ∧ d.getLsbD 0 = f.v)
    ∧ (x.flags = none → s.memRead (i : Int) = some (.plain x.r)))
  ∧ (∀ (s : State) (addr : Int), addr < 0 ∨ ((tableRows s.cfg).length : Int) ≤ addr → s.memRead addr = none)

/-- A lookup is one step with no side effect (R27, R87): the reply is the ROM's word or the refusal, and nothing but
the ROM's own input and output changes. Which addresses have no row is the spec's decision D8; that the refusal of such
a lookup (R26, U11) is a reply in a next state is the model's choice, log entry 2. -/
def Obligations.LookupReadsRomWithoutSideEffect : Prop :=
  ∀ (s : State) (addr : Int) (rest : List Input), s.inbox = .lookup addr :: rest →
    ∃ reply, step s = .next { s with inbox := rest, freeIdx := s.freeIdx + 1, romAddr := some addr, romReply := some reply }
      ∧ (∀ w, s.memRead addr = some w → reply = .data w)
      ∧ (s.memRead addr = none → reply = .refused)

/-- R81, R82: the literal header lines, and a data line's fields. The TABs and the LINE FEED that ends every line are
R83's decision D11 (log entry 13). -/
def Obligations.TextLinesHaveTheDocumentsForm : Prop :=
  headerLine .arith3 = "A[4]\tB[4]\tC[4]\tOutput[4]\tZero_flag\tCarry\tOverflow_flag\n".toList
  ∧ headerLine .arith4 = "A[4]\tB[4]\tC[4]\tOutput[4]\tZero_flag\tCarry\tOverflow_flag\n".toList
  ∧ headerLine .full16 = "A[4]\tB[4]\tC[4]\tOutput[4]\n".toList
  ∧ (∀ (x : Row) (f : Flags), x.flags = some f →
      dataLine x = bin4 x.a ++ ['\t'] ++ bin4 x.b ++ ['\t'] ++ bin4 x.op ++ ['\t'] ++ bin4 x.r
        ++ ['\t', bitChar f.z, '\t', bitChar f.c, '\t', bitChar f.v, '\n'])
  ∧ (∀ x : Row, x.flags = none →
      dataLine x = bin4 x.a ++ ['\t'] ++ bin4 x.b ++ ['\t'] ++ bin4 x.op ++ ['\t'] ++ bin4 x.r ++ ['\n'])

/-- R50: `bin4` gives four characters, most significant bit first, and no two nibbles the same text. -/
def Obligations.NibbleTextIsFourBinaryDigits : Prop :=
  (∀ v : Nibble, bin4 v = [v.getLsbD 3, v.getLsbD 2, v.getLsbD 1, v.getLsbD 0].map fun b => if b then '1' else '0')
  ∧ (∀ v w : Nibble, bin4 v = bin4 w → v = w)
  ∧ bitChar true = '1' ∧ bitChar false = '0'

/-- The text stream of a configuration (R83, decision D11): its fixed length, `N + 1` lines, each ended by one line
feed, and no character but the header's, digits, tabs and line feeds; in ASCII, one byte a character. -/
def Obligations.TextStreamHasFixedLengthAndAlphabet : Prop :=
  (textStream .arith3).length = 20023 ∧ (textStream .arith4).length = 26679 ∧ (textStream .full16).length = 81945
  ∧ (∀ cfg : Cfg, textStream cfg = headerLine cfg ++ (tableRows cfg).flatMap dataLine
      ∧ (textStream cfg).count '\n' = rowCount cfg + 1
      ∧ (textStream cfg).getLast? = some '\n'
      ∧ '\r' ∉ textStream cfg ∧ ' ' ∉ textStream cfg
      ∧ (∀ x ∈ (tableRows cfg).flatMap dataLine, x = '0' ∨ x = '1' ∨ x = '\t' ∨ x = '\n')
      ∧ (asciiBytes (textStream cfg)).length = (textStream cfg).length
      ∧ (∀ y ∈ asciiBytes (textStream cfg), y.toNat < 128))

/-- The request syntax (R43, decision D7): a request written out reads back as itself. -/
def Obligations.RequestTextReadsBack : Prop :=
  ∀ i : Instr, readRequest (requestText i) = some (requestOfInstr i)

/-- A consumer's check (R86): the rows it accepts are those of the right count with the right row at every index. -/
def Obligations.AcceptedTableHasNoFreedom : Prop :=
  ∀ (cfg : Cfg) (rows : List Row),
    acceptsTable cfg rows = true ↔
      rows.length = rowCount cfg
        ∧ ∀ i : Nat, i < rowCount cfg →
            rows[i]? = some (tableRow cfg (rowInputs cfg i).1 (rowInputs cfg i).2.1 (rowInputs cfg i).2.2)

/-! The sequential generator. -/

/-- RST (R88, R106, decisions D10, D16): from every state, whatever the cursor holds, the cursor stands at the first
row, that row is presented and the sink is empty (log entry 12); it is a step like any other, and leaves the evaluator and the ROM
alone. -/
def Obligations.RstBeginsGenerationFromAnyState : Prop :=
  ∀ (s : State) (rest : List Input), s.inbox = .rst :: rest →
    ∃ t, step s = .next t ∧ t.inbox = rest ∧ t.cfg = s.cfg
      ∧ t.cur.a = 0b0000#4 ∧ t.cur.b = 0b0000#4 ∧ t.cur.k = 0 ∧ t.cur.done = false ∧ t.phase = .running
      ∧ t.presentedRow = some (tableRow s.cfg 0b0000#4 0b0000#4 0b0000#4) ∧ t.doneOut = false ∧ t.sink = []
      ∧ t.request = s.request ∧ t.answer = s.answer ∧ t.romAddr = s.romAddr ∧ t.romReply = s.romReply

/-- The state after reset (R20, R106, decision D16; the strap is log entry 1): the cursor of RST, the first row
presented. That nothing stands at the evaluator's inputs and outputs yet is the model's choice, log entry 11. -/
def Obligations.ResetStandsAtFirstRow : Prop :=
  State.reset = State.resetWith .full16
  ∧ ∀ cfg : Cfg, (State.resetWith cfg).cur = { a := 0b0000#4, b := 0b0000#4, k := 0, done := false }
      ∧ (State.resetWith cfg).presentedRow = some (tableRow cfg 0b0000#4 0b0000#4 0b0000#4)
      ∧ (State.resetWith cfg).doneOut = false ∧ (State.resetWith cfg).cfg = cfg
      ∧ (State.resetWith cfg).request = none ∧ (State.resetWith cfg).answer = none

/-- STEP (R88, decision D10): the cursor's four cases while `done = 0`, the presented row passing to the sink (log
entry 12); with `done = 1` nothing changes. -/
def Obligations.StepEventAdvancesCursor : Prop :=
  ∀ (s : State) (rest : List Input), s.phase = .running → s.inbox = .step :: rest →
    ∃ t, step s = .next t ∧ t.inbox = rest ∧ t.cfg = s.cfg ∧ t.phase = .running
      ∧ t.request = s.request ∧ t.answer = s.answer ∧ t.romAddr = s.romAddr ∧ t.romReply = s.romReply
      ∧ (s.cur.done = true → t.cur = s.cur ∧ t.sink = s.sink)
      ∧ (s.cur.done = false →
          t.sink = s.sink ++ s.presentedRow.toList
          ∧ (s.cur.k < opcodeCount s.cfg - 1 →
              t.cur = { a := s.cur.a, b := s.cur.b, k := s.cur.k + 1, done := false })
          ∧ (¬ s.cur.k < opcodeCount s.cfg - 1 → s.cur.b.toNat < 15 →
              t.cur = { a := s.cur.a, b := BitVec.ofNat 4 (s.cur.b.toNat + 1), k := 0, done := false })
          ∧ (¬ s.cur.k < opcodeCount s.cfg - 1 → s.cur.b.toNat = 15 → s.cur.a.toNat < 15 →
              t.cur = { a := BitVec.ofNat 4 (s.cur.a.toNat + 1), b := 0b0000#4, k := 0, done := false })
          ∧ (¬ s.cur.k < opcodeCount s.cfg - 1 → s.cur.b.toNat = 15 → s.cur.a.toNat = 15 →
              t.cur = { a := 0b0000#4, b := 0b0000#4, k := 0, done := true }))

/-- A whole generation (R77, R88, R89, R90, decision D10): after RST and `n` STEPs, from any state and under any
configuration, the sink holds the first `n` rows of the table in order, row `n` is presented if there is one, and
`DONE` is 1 exactly from the `N`-th STEP on. That the sink is a list of the rows taken is log entry 12. -/
def Obligations.GenerationEmitsTheTableInOrder : Prop :=
  ∀ (s : State) (n : Nat) (rest : List Input), s.inbox = .rst :: (List.replicate n .step ++ rest) →
    ∃ t : State, core.run (n + 1) s = .next t ∧ t.inbox = rest ∧ t.cfg = s.cfg
      ∧ t.sink = (tableRows s.cfg).take n ∧ t.presentedRow = (tableRows s.cfg)[n]?
      ∧ (t.doneOut = true ↔ (tableRows s.cfg).length ≤ n)

/-- The evaluator and the ROM leave the generator alone (R21, R104): a request or a lookup changes neither the cursor
nor what is presented nor what the sink has taken, nor, from the first RST on, `DONE`. That a refused request and a
refused lookup are served to a next state too is the model's choice, log entry 2. -/
def Obligations.RequestsAndLookupsLeaveGeneratorAlone : Prop :=
  ∀ (s : State) (x : Input) (rest : List Input), s.inbox = x :: rest →
    (∃ q, x = .request q) ∨ (∃ addr, x = .lookup addr) →
      ∃ t, step s = .next t ∧ t.cur = s.cur ∧ t.phase = s.phase ∧ t.sink = s.sink
        ∧ t.presentedRow = s.presentedRow ∧ (s.phase ≠ .beforeRst → t.doneOut = s.doneOut)

/-- The generator leaves the evaluator and the ROM alone: none of its events changes what stands at their inputs and
outputs (R105, R107). That a sink failure is a next state is the model's choice, log entry 2. -/
def Obligations.GeneratorEventsLeaveEvaluatorAlone : Prop :=
  ∀ (s : State) (x : Input) (rest : List Input), s.inbox = x :: rest →
    x = .rst ∨ x = .step ∨ x = .sinkFailure →
      ∃ t, step s = .next t ∧ t.request = s.request ∧ t.answer = s.answer ∧ t.romAddr = s.romAddr
        ∧ t.romReply = s.romReply ∧ t.inbox = rest ∧ (∀ addr : Int, t.memRead addr = s.memRead addr)

/-- SinkFailure (R95, R99, R100, decision D13): it ends a generation in progress and is reported, the cursor keeps its
value, no STEP after it emits a row, `DONE` (R88) stays 0, and RST begins again from row 0. That the machine goes on is
the model's choice, log entry 2; that a STEP meanwhile leaves the cursor alone is log entry 7. -/
def Obligations.SinkFailureAbortsGeneration : Prop :=
  ∀ (s : State) (n : Nat) (rest : List Input), s.phase = .running → s.cur.done = false →
    s.inbox = .sinkFailure :: (List.replicate n .step ++ rest) →
      ∃ t : State, core.run (n + 1) s = .next t ∧ t.inbox = rest ∧ t.sinkFailureReported = true ∧ t.cur = s.cur
        ∧ t.presentedRow = none ∧ t.doneOut = false
        ∧ (∃ u : State, core.run 1 s = .next u ∧ t.sink = u.sink)
        ∧ (∀ more, rest = .rst :: more → ∃ v, step t = .next v ∧ v.sink = [] ∧ v.sinkFailureReported = false
            ∧ v.presentedRow = some (tableRow s.cfg 0b0000#4 0b0000#4 0b0000#4))

/-- The configuration is a parameter and the table a constant (R13, R21): no step changes the strap, and so no word of
the ROM. -/
def Obligations.NoStepChangesConfigurationOrRom : Prop :=
  ∀ (s t : State), step s = .next t → t.cfg = s.cfg ∧ ∀ addr : Int, t.memRead addr = s.memRead addr

/-- The block's invariant holds after reset, under every configuration; what stands at the boundary then is the
model's choice, log entries 11 and 12. -/
def Obligations.ResetMeetsBlockInvariant : Prop := ∀ cfg : Cfg, Inv (State.resetWith cfg)

/-- Every step keeps the block's invariant: the cursor of a generation is legal and the sink holds exactly the rows
before it (R77, R88), the evaluator's outputs are `evaluate` of its present inputs (R16), and the ROM's output is a
function of its address (R23). That outputs stand until the next input, refusals among them, and that the sink is a list
of rows are the model's choices, log entries 2, 11 and 12. -/
def Obligations.EveryStepKeepsBlockInvariant : Prop :=
  ∀ (s t : State), Inv s → step s = .next t → Inv t

/-- A generation whose `DONE` is 1 is complete: in every state that meets the invariant, the sink then holds the whole
table, and what it holds is what a consumer accepts (R86, R88). -/
def Obligations.DoneMeansWholeTable : Prop :=
  ∀ s : State, Inv s → s.phase = .running → s.doneOut = true →
    GenerationComplete s ∧ acceptsTable s.cfg s.sink = true ∧ s.presentedRow = none
      ∧ streamOf s.cfg s.sink = textStream s.cfg
end

