-- ==== Sys2Proof/Laws/State.lean ====
section
/-! SUPPORT. One lemma per field per update of State, so that no proof unfolds a record update. -/

namespace Sys2Proof.Machine

section
variable (s : State) (rest : List Input) (q : Request) (e : Evaluation) (f : Field) (addr : Int)

@[simp] theorem State.takeInput_cfg : (s.takeInput rest).cfg = s.cfg := rfl
@[simp] theorem State.takeInput_cur : (s.takeInput rest).cur = s.cur := rfl
@[simp] theorem State.takeInput_phase : (s.takeInput rest).phase = s.phase := rfl
@[simp] theorem State.takeInput_inbox : (s.takeInput rest).inbox = rest := rfl
@[simp] theorem State.takeInput_request : (s.takeInput rest).request = s.request := rfl
@[simp] theorem State.takeInput_answer : (s.takeInput rest).answer = s.answer := rfl
@[simp] theorem State.takeInput_romAddr : (s.takeInput rest).romAddr = s.romAddr := rfl
@[simp] theorem State.takeInput_romReply : (s.takeInput rest).romReply = s.romReply := rfl
@[simp] theorem State.takeInput_sink : (s.takeInput rest).sink = s.sink := rfl
@[simp] theorem State.takeInput_freeIdx : (s.takeInput rest).freeIdx = s.freeIdx + 1 := rfl

@[simp] theorem State.present_cfg : (s.present q).cfg = s.cfg := rfl
@[simp] theorem State.present_cur : (s.present q).cur = s.cur := rfl
@[simp] theorem State.present_phase : (s.present q).phase = s.phase := rfl
@[simp] theorem State.present_inbox : (s.present q).inbox = s.inbox := rfl
@[simp] theorem State.present_request : (s.present q).request = some q := rfl
@[simp] theorem State.present_answer : (s.present q).answer = s.answer := rfl
@[simp] theorem State.present_romAddr : (s.present q).romAddr = s.romAddr := rfl
@[simp] theorem State.present_romReply : (s.present q).romReply = s.romReply := rfl
@[simp] theorem State.present_sink : (s.present q).sink = s.sink := rfl
@[simp] theorem State.present_freeIdx : (s.present q).freeIdx = s.freeIdx := rfl

@[simp] theorem State.respond_cfg : (s.respond e).cfg = s.cfg := rfl
@[simp] theorem State.respond_cur : (s.respond e).cur = s.cur := rfl
@[simp] theorem State.respond_phase : (s.respond e).phase = s.phase := rfl
@[simp] theorem State.respond_inbox : (s.respond e).inbox = s.inbox := rfl
@[simp] theorem State.respond_request : (s.respond e).request = s.request := rfl
@[simp] theorem State.respond_answer : (s.respond e).answer = some (.evaluated e) := rfl
@[simp] theorem State.respond_romAddr : (s.respond e).romAddr = s.romAddr := rfl
@[simp] theorem State.respond_romReply : (s.respond e).romReply = s.romReply := rfl
@[simp] theorem State.respond_sink : (s.respond e).sink = s.sink := rfl
@[simp] theorem State.respond_freeIdx : (s.respond e).freeIdx = s.freeIdx := rfl

@[simp] theorem State.refuseRequest_cfg : (s.refuseRequest f).cfg = s.cfg := rfl
@[simp] theorem State.refuseRequest_cur : (s.refuseRequest f).cur = s.cur := rfl
@[simp] theorem State.refuseRequest_phase : (s.refuseRequest f).phase = s.phase := rfl
@[simp] theorem State.refuseRequest_inbox : (s.refuseRequest f).inbox = s.inbox := rfl
@[simp] theorem State.refuseRequest_request : (s.refuseRequest f).request = s.request := rfl
@[simp] theorem State.refuseRequest_answer : (s.refuseRequest f).answer = some (.domainViolation f) := rfl
@[simp] theorem State.refuseRequest_romAddr : (s.refuseRequest f).romAddr = s.romAddr := rfl
@[simp] theorem State.refuseRequest_romReply : (s.refuseRequest f).romReply = s.romReply := rfl
@[simp] theorem State.refuseRequest_sink : (s.refuseRequest f).sink = s.sink := rfl
@[simp] theorem State.refuseRequest_freeIdx : (s.refuseRequest f).freeIdx = s.freeIdx := rfl

@[simp] theorem State.lookup_cfg : (s.lookup addr).cfg = s.cfg := rfl
@[simp] theorem State.lookup_cur : (s.lookup addr).cur = s.cur := rfl
@[simp] theorem State.lookup_phase : (s.lookup addr).phase = s.phase := rfl
@[simp] theorem State.lookup_inbox : (s.lookup addr).inbox = s.inbox := rfl
@[simp] theorem State.lookup_request : (s.lookup addr).request = s.request := rfl
@[simp] theorem State.lookup_answer : (s.lookup addr).answer = s.answer := rfl
@[simp] theorem State.lookup_romAddr : (s.lookup addr).romAddr = some addr := rfl
@[simp] theorem State.lookup_romReply : (s.lookup addr).romReply = some (romReplyTo s.cfg addr) := rfl
@[simp] theorem State.lookup_sink : (s.lookup addr).sink = s.sink := rfl
@[simp] theorem State.lookup_freeIdx : (s.lookup addr).freeIdx = s.freeIdx := rfl

@[simp] theorem State.rst_cfg : s.rst.cfg = s.cfg := rfl
@[simp] theorem State.rst_cur : s.rst.cur = Cursor.first := rfl
@[simp] theorem State.rst_phase : s.rst.phase = .running := rfl
@[simp] theorem State.rst_inbox : s.rst.inbox = s.inbox := rfl
@[simp] theorem State.rst_request : s.rst.request = s.request := rfl
@[simp] theorem State.rst_answer : s.rst.answer = s.answer := rfl
@[simp] theorem State.rst_romAddr : s.rst.romAddr = s.romAddr := rfl
@[simp] theorem State.rst_romReply : s.rst.romReply = s.romReply := rfl
@[simp] theorem State.rst_sink : s.rst.sink = [] := rfl
@[simp] theorem State.rst_freeIdx : s.rst.freeIdx = s.freeIdx := rfl

end

/-! The generator's operations branch, so their frame is one lemma each: they change nothing but the cursor, the
phase and the sink. -/

/-- The fields the generator's events leave alone. -/
theorem State.stepGenerator_frame (s : State) :
    s.stepGenerator.cfg = s.cfg ∧ s.stepGenerator.inbox = s.inbox ∧ s.stepGenerator.request = s.request
      ∧ s.stepGenerator.answer = s.answer ∧ s.stepGenerator.romAddr = s.romAddr
      ∧ s.stepGenerator.romReply = s.romReply ∧ s.stepGenerator.freeIdx = s.freeIdx
      ∧ s.stepGenerator.phase = s.phase := by
  unfold State.stepGenerator State.stepRunning
  cases h : s.phase <;> simp only [] <;> (try split) <;> simp_all

/-- The fields a sink failure leaves alone; the cursor is among them (R99). -/
theorem State.failSink_frame (s : State) :
    s.failSink.cfg = s.cfg ∧ s.failSink.cur = s.cur ∧ s.failSink.inbox = s.inbox ∧ s.failSink.request = s.request
      ∧ s.failSink.answer = s.answer ∧ s.failSink.romAddr = s.romAddr ∧ s.failSink.romReply = s.romReply
      ∧ s.failSink.freeIdx = s.freeIdx := by
  unfold State.failSink
  cases s.phase <;> simp only [] <;> (try split) <;> simp

end Sys2Proof.Machine
end

