-- ==== Sys2Proof/Laws/Ops.lean ====
section
/-! SUPPORT. One lemma for each shared operation that says everything it can do; the proofs cite it instead of
unfolding the operation. -/

namespace Sys2Proof.Machine

/-- Whichever operation an instruction selects, its meaning answers that operation's evaluation of its operands. -/
theorem exec_eq_respond (i : Instr) (s : State) :
    exec i s = .next (s.respond (evalOp i.operation i.opA i.opB)) := by
  cases i <;> rfl

/-- `memRead` gives the ROM's content at an address of a row. -/
theorem memRead_of_lt {cfg : Cfg} {addr : Int} (h0 : 0 ≤ addr) (h1 : addr < (rowCount cfg : Int)) :
    memRead cfg addr = some (romContent cfg addr.toNat) := by
  simp [memRead, h0, h1]

/-- `memRead` gives nothing at an address below 0. -/
theorem memRead_of_neg {cfg : Cfg} {addr : Int} (h : addr < 0) : memRead cfg addr = none := by
  simp [memRead]; omega

/-- `memRead` gives nothing at an address past the last row. -/
theorem memRead_of_ge {cfg : Cfg} {addr : Int} (h : (rowCount cfg : Int) ≤ addr) : memRead cfg addr = none := by
  simp [memRead]; omega

/-- The ROM seen from a state depends on the strap alone. -/
theorem State.memRead_congr {s t : State} (h : t.cfg = s.cfg) (addr : Int) : t.memRead addr = s.memRead addr := by
  simp [State.memRead, h]

/-- The presented row depends on the strap, the phase and the cursor alone. -/
theorem State.presentedRow_congr {s t : State} (hc : t.cfg = s.cfg) (hp : t.phase = s.phase) (hu : t.cur = s.cur) :
    t.presentedRow = s.presentedRow := by
  simp [State.presentedRow, hc, hp, hu]

/-- A request without a violation has three fields between 0 and 15. -/
theorem Request.violation_eq_none_iff (q : Request) :
    q.violation = none ↔ (0 ≤ q.a ∧ q.a ≤ 15) ∧ (0 ≤ q.b ∧ q.b ≤ 15) ∧ (0 ≤ q.op ∧ q.op ≤ 15) := by
  unfold Request.violation inDomain
  split
  · simp_all; omega
  · split
    · simp_all; omega
    · split <;> simp_all; omega

/-- A request is well-formed exactly when nothing is violated. -/
theorem Request.wf_iff_violation (q : Request) : q.wf = true ↔ q.violation = none := by
  rw [Request.violation_eq_none_iff]
  simp [Request.wf, inDomain, and_assoc]

/-- Every instruction is well-formed: its fields are nibbles. -/
theorem Instr.wf_true (i : Instr) : i.wf = true := by
  have ha := i.opA.isLt
  have hb := i.opB.isLt
  simp only [Instr.wf, inDomain, Bool.and_eq_true, decide_eq_true_eq]
  omega

/-- The three cases of a STEP of a generation in progress or over. -/
theorem State.stepRunning_cases (s : State) :
    (s.cur.done = true ∧ s.stepRunning = s)
      ∨ (s.cur.done = false
        ∧ s.stepRunning = { s with cur := s.cur.advance s.cfg, sink := s.sink ++ (s.cur.row s.cfg).toList }) := by
  unfold State.stepRunning
  cases s.cur.done <;> simp

/-- The four cases of the cursor's advance (R88). -/
theorem Cursor.advance_cases (cfg : Cfg) (c : Cursor) :
    (c.k < opcodeCount cfg - 1 ∧ c.advance cfg = { c with k := c.k + 1 })
      ∨ (¬ c.k < opcodeCount cfg - 1 ∧ toUnsigned c.b < 15 ∧ c.advance cfg = { c with k := 0, b := c.b + 1#4 })
      ∨ (¬ c.k < opcodeCount cfg - 1 ∧ toUnsigned c.b = 15 ∧ toUnsigned c.a < 15
        ∧ c.advance cfg = { c with k := 0, b := 0b0000#4, a := c.a + 1#4 })
      ∨ (¬ c.k < opcodeCount cfg - 1 ∧ toUnsigned c.b = 15 ∧ toUnsigned c.a = 15
        ∧ c.advance cfg = { a := 0b0000#4, b := 0b0000#4, k := 0, done := true }) := by
  have hb : toUnsigned c.b < 16 := c.b.isLt
  have ha : toUnsigned c.a < 16 := c.a.isLt
  unfold Cursor.advance
  split
  · exact Or.inl ⟨‹_›, rfl⟩
  · split
    · exact Or.inr (Or.inl ⟨‹_›, ‹_›, rfl⟩)
    · split
      · exact Or.inr (Or.inr (Or.inl ⟨‹_›, by omega, ‹_›, rfl⟩))
      · exact Or.inr (Or.inr (Or.inr ⟨‹_›, by omega, by omega, rfl⟩))

/-- From the first RST on, `DONE` is the cursor's `done` (R88). -/
theorem State.doneOut_eq_done {s : State} (h : s.phase ≠ .beforeRst) : s.doneOut = s.cur.done := by
  unfold State.doneOut
  cases hp : s.phase
  · exact absurd hp h
  · rfl
  · rfl

/-- What a sink failure does: nothing where no generation is in progress, else it ends the generation. -/
theorem State.failSink_cases (s : State) :
    s.failSink = s ∨ s.failSink = { s with phase := .aborted, sink := Config.freeSink s.freeIdx } := by
  unfold State.failSink
  cases s.phase
  · exact Or.inr rfl
  · cases h : s.cur.done <;> simp
  · exact Or.inl rfl

end Sys2Proof.Machine
end

