-- ==== Sys2Proof/Laws/Step.lean ====
section
/-! SUPPORT. What a step can do, said once: nothing is presented, or the head of the inbox is served. -/

namespace Sys2Proof.Machine

/-- With nothing presented nothing happens. -/
theorem step_of_nil {s : State} (h : s.inbox = []) : step s = .next s := by
  simp [step, serveNext, h]

/-- Otherwise the head of what the host presents is taken and served. -/
theorem step_of_cons {s : State} {x : Input} {rest : List Input} (h : s.inbox = x :: rest) :
    step s = serve x (s.takeInput rest) := by
  simp [step, serveNext, h]

@[simp] theorem serve_rst (s : State) : serve .rst s = .next s.rst := rfl
@[simp] theorem serve_step (s : State) : serve .step s = .next s.stepGenerator := rfl
@[simp] theorem serve_sinkFailure (s : State) : serve .sinkFailure s = .next s.failSink := rfl
@[simp] theorem serve_lookup (addr : Int) (s : State) : serve (.lookup addr) s = .next (s.lookup addr) := rfl

/-- A request within the domain is executed with the request at the inputs. -/
theorem serve_request_ok {q : Request} {i : Instr} (h : decodeRequest q = .ok i) (s : State) :
    serve (.request q) s = exec i (s.present q) := by
  simp [serve, serveRequest, h]

/-- A request outside the domain is refused with the request at the inputs. -/
theorem serve_request_error {q : Request} {f : Field} (h : decodeRequest q = .error f) (s : State) :
    serve (.request q) s = .next ((s.present q).refuseRequest f) := by
  simp [serve, serveRequest, h]

/-- Every input is served to a next state: one of these. -/
theorem serve_cases (x : Input) (s : State) :
    (∃ q e, x = .request q ∧ q.violation = none
        ∧ serve x s = .next ((s.present q).respond e)
        ∧ e = evaluate (BitVec.ofInt 4 q.a) (BitVec.ofInt 4 q.b) (BitVec.ofInt 4 q.op))
      ∨ (∃ q f, x = .request q ∧ q.violation = some f ∧ serve x s = .next ((s.present q).refuseRequest f))
      ∨ (x = .rst ∧ serve x s = .next s.rst)
      ∨ (x = .step ∧ serve x s = .next s.stepGenerator)
      ∨ (x = .sinkFailure ∧ serve x s = .next s.failSink)
      ∨ (∃ addr, x = .lookup addr ∧ serve x s = .next (s.lookup addr)) := by
  cases x with
  | request q =>
    cases h : q.violation with
    | none =>
      refine Or.inl ⟨q, _, rfl, h, ?_, rfl⟩
      rw [serve_request_ok (by simp [decodeRequest, h]; rfl), exec_eq_respond]
      unfold evaluate
      cases opOfNibble (BitVec.ofInt 4 q.op) <;> rfl
    | some f =>
      exact Or.inr (Or.inl ⟨q, f, rfl, h, serve_request_error (by simp [decodeRequest, h]) s⟩)
  | rst => simp
  | step => simp
  | sinkFailure => simp
  | lookup addr => simp

end Sys2Proof.Machine
end

