-- ==== Sys2Proof/Laws/PerInstr.lean ====
section
/-! SUPPORT. The family WordFields of statements made per instruction: where the three fields of a request stand in
its packed word (spec/30_encoding.md R34) and which opcode it carries. -/

/-- The packed word of `i` holds `A` in bits 11:8, `B` in bits 7:4 and the opcode of its operation in bits 3:0. -/
def Sys2Proof.Laws.WordFields.Statement (i : Sys2Proof.Instr) : Prop :=
  (Sys2Proof.encode i).extractLsb' 8 4 = i.opA
    ∧ (Sys2Proof.encode i).extractLsb' 4 4 = i.opB
    ∧ (Sys2Proof.encode i).extractLsb' 0 4 = Sys2Proof.nibbleOfOp i.operation

namespace Sys2Proof.Laws

/-- The three fields of a packed word can be read back from it. -/
theorem fields_of_append (a b o : Nibble) :
    (a ++ b ++ o).extractLsb' 8 4 = a ∧ (a ++ b ++ o).extractLsb' 4 4 = b ∧ (a ++ b ++ o).extractLsb' 0 4 = o := by
  revert a b o
  decide +kernel

theorem WordFields.add (a b : Nibble) : WordFields.Statement (.add a b) := fields_of_append a b _
theorem WordFields.subab (a b : Nibble) : WordFields.Statement (.subab a b) := fields_of_append a b _
theorem WordFields.subba (a b : Nibble) : WordFields.Statement (.subba a b) := fields_of_append a b _
theorem WordFields.mul (a b : Nibble) : WordFields.Statement (.mul a b) := fields_of_append a b _
theorem WordFields.and (a b : Nibble) : WordFields.Statement (.and a b) := fields_of_append a b _
theorem WordFields.or (a b : Nibble) : WordFields.Statement (.or a b) := fields_of_append a b _
theorem WordFields.xor (a b : Nibble) : WordFields.Statement (.xor a b) := fields_of_append a b _
theorem WordFields.nand (a b : Nibble) : WordFields.Statement (.nand a b) := fields_of_append a b _
theorem WordFields.pass (a b : Nibble) : WordFields.Statement (.pass a b) := fields_of_append a b _
theorem WordFields.not (a b : Nibble) : WordFields.Statement (.not a b) := fields_of_append a b _
theorem WordFields.sll (a b : Nibble) : WordFields.Statement (.sll a b) := fields_of_append a b _
theorem WordFields.srl (a b : Nibble) : WordFields.Statement (.srl a b) := fields_of_append a b _
theorem WordFields.sla (a b : Nibble) : WordFields.Statement (.sla a b) := fields_of_append a b _
theorem WordFields.sra (a b : Nibble) : WordFields.Statement (.sra a b) := fields_of_append a b _
theorem WordFields.rol (a b : Nibble) : WordFields.Statement (.rol a b) := fields_of_append a b _
theorem WordFields.ror (a b : Nibble) : WordFields.Statement (.ror a b) := fields_of_append a b _

end Sys2Proof.Laws
end

