-- ==== Sys2Proof/Laws/Table.lean ====
section
/-! SUPPORT. The table's shape and the cursor's arithmetic, each said once. -/

namespace Sys2Proof.Machine

/-- Every configuration has an opcode (R76). -/
theorem opcodeCount_pos (cfg : Cfg) : 0 < opcodeCount cfg := by cases cfg <;> decide

/-- The opcode lists begin at 0 and have no gaps (R79): the opcode at position `k` is `k`. -/
theorem opcodeList_getElem? (cfg : Cfg) : ∀ k, k < opcodeCount cfg → (opcodeList cfg)[k]? = some (BitVec.ofNat 4 k) := by
  cases cfg <;> decide

/-- The nibble at position `k` of the ascending sixteen is `k`. -/
theorem nibblesAscending_getElem? : ∀ k, k < 16 → nibblesAscending[k]? = some (BitVec.ofNat 4 k) := by decide

/-- Indexing a loop whose body emits `n` items each time: a mixed-radix count. -/
theorem getElem?_flatMap_of_length {α β : Type} (f : α → List β) (n : Nat) (hn : 0 < n)
    (hl : ∀ x, (f x).length = n) :
    ∀ (l : List α) (i : Nat), (l.flatMap f)[i]? = (l[i / n]?).bind fun x => (f x)[i % n]?
  | [], i => by simp
  | x :: xs, i => by
    rw [List.flatMap_cons, List.getElem?_append, hl]
    split
    · rename_i h
      rw [Nat.div_eq_of_lt h, Nat.mod_eq_of_lt h]
      simp
    · rename_i h
      rw [getElem?_flatMap_of_length f n hn hl xs (i - n)]
      have hd : i / n = (i - n) / n + 1 := by
        rw [← Nat.add_div_right _ hn]
        congr 1
        omega
      have hm : i % n = (i - n) % n := by
        conv_lhs => rw [show i = (i - n) + n by omega]
        simp
      rw [hd, ← hm]
      rfl

/-- A STEP keeps a legal cursor legal and moves it by one position (R88). -/
theorem Cursor.advance_legal_position {cfg : Cfg} {c : Cursor} (h : c.Legal cfg) (hd : c.done = false) :
    (c.advance cfg).Legal cfg ∧ (c.advance cfg).position cfg = c.position cfg + 1 := by
  have hp := opcodeCount_pos cfg
  have hk := h.1
  rcases Cursor.advance_cases cfg c with ⟨h1, e⟩ | ⟨h1, h2, e⟩ | ⟨h1, h2, h3, e⟩ | ⟨h1, h2, h3, e⟩ <;> rw [e]
  · refine ⟨⟨by simp; omega, by simp [hd]⟩, by simp [Cursor.position, hd]; omega⟩
  · refine ⟨⟨by simp; omega, by simp [hd]⟩, ?_⟩
    have hb : toUnsigned (c.b + 1#4) = toUnsigned c.b + 1 := by simp [toUnsigned] at *; omega
    have hk' : c.k = opcodeCount cfg - 1 := by omega
    simp only [Cursor.position, hd, Bool.false_eq_true, if_false, hb]
    rw [hk', ← Nat.add_assoc, Nat.add_mul]
    omega
  · refine ⟨⟨by simp; omega, by simp [hd]⟩, ?_⟩
    have ha : toUnsigned (c.a + 1#4) = toUnsigned c.a + 1 := by simp [toUnsigned] at *; omega
    have hk' : c.k = opcodeCount cfg - 1 := by omega
    cases cfg <;> simp_all [Cursor.position, opcodeCount, opcodeList, toUnsigned] <;> omega
  · refine ⟨⟨by simp; omega, by simp⟩, ?_⟩
    cases cfg <;> simp_all [Cursor.position, opcodeCount, opcodeList, rowCount] <;> omega

/-- A run of one more step is that step and then the run. -/
theorem core_run_succ {s t : State} (n : Nat) (h : step s = .next t) : core.run (n + 1) s = core.run n t := by
  show Host.Core.run core (Nat.succ n) s = _
  simp only [Host.Core.run]
  rw [show core.step s = .next t from h]

end Sys2Proof.Machine
end

