-- ==== Sys2Proof/Tests/Slice0.lean ====
section
/-! SUPPORT. The model's own tests: expected results are the spec's (its encodings, worked examples and corner cases,
cited), and the witnesses that the hypotheses of the statements can be met. -/

namespace Sys2Proof.Tests

open Sys2Proof Sys2Proof.Machine

/-! ## Well-formedness: each domain check refuses an ill-formed request (spec/95 section 2.5). -/

theorem test_wf_accepts : ({ a := 15, b := 0, op := 15 } : Request).wf = true := by decide
theorem test_wf_refuses_a : ({ a := 16, b := 0, op := 0 } : Request).wf = false := by decide
theorem test_wf_refuses_b : ({ a := 0, b := -1, op := 0 } : Request).wf = false := by decide
theorem test_wf_refuses_op : ({ a := 3, b := 2, op := 16 } : Request).wf = false := by decide

/-! ## Decoding: one word for each constructor, written out from R34 and R37 (requests of spec/95 section 2). -/

theorem test_decode_add : decodeW12 0b1111_0001_0000#12 = .add 0b1111#4 0b0001#4 := by decide
theorem test_decode_subab : decodeW12 0b1000_0001_0001#12 = .subab 0b1000#4 0b0001#4 := by decide
theorem test_decode_subba : decodeW12 0b0101_0011_0010#12 = .subba 0b0101#4 0b0011#4 := by decide
theorem test_decode_mul : decodeW12 0b0011_1101_0011#12 = .mul 0b0011#4 0b1101#4 := by decide
theorem test_decode_and : decodeW12 0b1100_1010_0100#12 = .and 0b1100#4 0b1010#4 := by decide
theorem test_decode_or : decodeW12 0b1100_1010_0101#12 = .or 0b1100#4 0b1010#4 := by decide
theorem test_decode_xor : decodeW12 0b0101_1111_0110#12 = .xor 0b0101#4 0b1111#4 := by decide
theorem test_decode_nand : decodeW12 0b1100_1010_0111#12 = .nand 0b1100#4 0b1010#4 := by decide
theorem test_decode_pass : decodeW12 0b1011_0110_1000#12 = .pass 0b1011#4 0b0110#4 := by decide
theorem test_decode_not : decodeW12 0b0101_1111_1001#12 = .not 0b0101#4 0b1111#4 := by decide
theorem test_decode_sll : decodeW12 0b1100_0011_1010#12 = .sll 0b1100#4 0b0011#4 := by decide
theorem test_decode_srl : decodeW12 0b1001_1001_1011#12 = .srl 0b1001#4 0b1001#4 := by decide
theorem test_decode_sla : decodeW12 0b1100_0011_1100#12 = .sla 0b1100#4 0b0011#4 := by decide
theorem test_decode_sra : decodeW12 0b1111_0010_1101#12 = .sra 0b1111#4 0b0010#4 := by decide
theorem test_decode_rol : decodeW12 0b1000_0111_1110#12 = .rol 0b1000#4 0b0111#4 := by decide
theorem test_decode_ror : decodeW12 0b0001_0111_1111#12 = .ror 0b0001#4 0b0111#4 := by decide

/-- A number wider than the packed word is refused by the name of its field, not truncated (R94). -/
theorem test_decode_wide_number : decodeTableWord 16 0x1000 = none ∧ requestOfNumber 0x1000 = { a := 16, b := 0, op := 0 } := by
  decide

/-! ## One step of each instruction, from the table word, on a small state (outcomes of spec/41, 42, 43, 95). -/

/-- A block of the three-opcode configuration to which the host presents `xs`. -/
def demo (xs : List Input) : State := { State.resetWith .arith3 with inbox := xs }

/-- The state a step leads to satisfies `p`. -/
def stepped (s : State) (p : State → Bool) : Bool :=
  match step s with
  | .next t => p t
  | .fault _ => false
  | .refused _ => false

/-- The answer of the step that runs the packed word `w`. -/
def answersTo (w : Nat) (r : Nibble) (f : Option Flags) : Bool :=
  stepped ((demo []).withFetchWord 12 w) fun t => decide (t.answer = some (.evaluated { r := r, flags := f }))

theorem test_add_wraps : answersTo 0x880 0b0000#4 (some ⟨true, true, true⟩) = true := by decide
theorem test_add_overflow_without_carry : answersTo 0x710 0b1000#4 (some ⟨false, false, true⟩) = true := by decide
theorem test_subab_borrow_and_overflow : answersTo 0x7F1 0b1000#4 (some ⟨false, true, true⟩) = true := by decide
theorem test_subab_overflow_without_borrow : answersTo 0x811 0b0111#4 (some ⟨false, false, true⟩) = true := by decide
theorem test_subba_operand_order : answersTo 0x532 0b1110#4 (some ⟨false, true, false⟩) = true := by decide
theorem test_subba_negates_least : answersTo 0x802 0b1000#4 (some ⟨false, true, true⟩) = true := by decide
theorem test_mul_wraps_to_zero : answersTo 0x443 0b0000#4 (some ⟨true, false, true⟩) = true := by decide
theorem test_mul_signed : answersTo 0xF83 0b1000#4 (some ⟨false, false, true⟩) = true := by decide
theorem test_and : answersTo 0xCA4 0b1000#4 none = true := by decide
theorem test_or : answersTo 0xCA5 0b1110#4 none = true := by decide
theorem test_xor_no_zero_flag : answersTo 0x996 0b0000#4 none = true := by decide
theorem test_xor : answersTo 0xCA6 0b0110#4 none = true := by decide
theorem test_nand_masked : answersTo 0xFF7 0b0000#4 none = true := by decide
theorem test_nand : answersTo 0xCA7 0b0111#4 none = true := by decide
theorem test_pass_is_no_negation : answersTo 0xB68 0b1011#4 none = true := by decide
theorem test_not_ignores_b : answersTo 0x5F9 0b1010#4 none = true := by decide
theorem test_sll_drops_top : answersTo 0xC3A 0b1000#4 none = true := by decide
theorem test_srl_fills_zero : answersTo 0x99B 0b0100#4 none = true := by decide
theorem test_sla_is_sll : answersTo 0xC3C 0b1000#4 none = true := by decide
theorem test_sra_keeps_sign : answersTo 0x99D 0b1100#4 none = true := by decide
theorem test_sra_rounds_down : answersTo 0xF2D 0b1111#4 none = true := by decide
theorem test_rol_wraps : answersTo 0x87E 0b0001#4 none = true := by decide
theorem test_ror_wraps : answersTo 0x17F 0b1000#4 none = true := by decide

/-! ## The boundary: refusals (spec/95 section 2.5), the ROM (section 2.6), the generator (P6), the text. -/

theorem test_domain_violation_b : stepped (demo [.request { a := 5, b := 19, op := 8 }])
    (fun t => decide (t.answer = some (.domainViolation .B))) = true := by decide
theorem test_domain_violation_first : stepped (demo [.request { a := 16, b := 16, op := 16 }])
    (fun t => decide (t.answer = some (.domainViolation .A))) = true := by decide
theorem test_rom_last_row : stepped (demo [.lookup 767])
    (fun t => decide (t.romReply = some (.data (.withFlags 0b0000100#7)))) = true := by decide
theorem test_rom_no_row : stepped (demo [.lookup 768]) (fun t => decide (t.romReply = some .refused)) = true := by decide
theorem test_rom_arith4 : memRead .arith4 33 = some (.withFlags 0b1000011#7) := by decide
theorem test_rom_full16 : memRead .full16 2653 = some (.plain 0b1101#4) := by decide
theorem test_generator_carries_into_b : stepped { demo [.step] with cur := { a := 0#4, b := 0#4, k := 2, done := false } }
    (fun t => decide (t.cur = { a := 0#4, b := 1#4, k := 0, done := false })) = true := by decide
theorem test_generator_ends : stepped { demo [.step] with cur := { a := 15#4, b := 15#4, k := 2, done := false } }
    (fun t => decide (t.cur = { a := 0#4, b := 0#4, k := 0, done := true })) = true := by decide
theorem test_data_line : dataLine (tableRow .arith4 0b0100#4 0b0100#4 0b0011#4)
    = "0100\t0100\t0011\t0000\t1\t0\t1\n".toList := by decide
theorem test_header_full16 : headerLine .full16 = "A[4]\tB[4]\tC[4]\tOutput[4]\n".toList := by decide
theorem test_request_text : requestText (.mul 0b0100#4 0b0100#4) = "MUL 0100, 0100".toList := by decide
theorem test_read_one_operand : readRequest "NOT 0xA".toList = some { a := 10, b := 0, op := 9 }
    ∧ readRequest "ADD 5".toList = none := by decide
theorem test_outcome_text : outcomeText (evalMul 0b0100#4 0b0100#4) = "-> 0000 1 0 1".toList
    ∧ outcomeText (evalNot 0b0101#4 0b0000#4) = "-> 1010 -".toList := by decide

/-! ## Witnesses: states and operands that meet the hypotheses of the statements, one for each clause. -/

/-- Subtraction clauses at their boundary: a borrow, and none at equal operands. -/
theorem witness_subtraction_clauses : toUnsigned 0b0000#4 < toUnsigned 0b0001#4 ∧ toUnsigned 0b1000#4 ≤ toUnsigned 0b1000#4 := by
  decide

/-- ZeroFlagTestsWrappedResult: an instruction of each of the four operations. -/
theorem witness_arithmetic_operations : (Instr.add 0#4 0#4).operation = .add ∧ (Instr.subab 0#4 0#4).operation = .subab
    ∧ (Instr.subba 0#4 0#4).operation = .subba ∧ (Instr.mul 0#4 0#4).operation = .mul := by decide

/-- FlagsExistExactlyForArithmeticOpcodes: the last opcode with flags and the first without. -/
theorem witness_flag_clauses : (nibbleOfOp (Instr.mul 0#4 0#4).operation).toNat ≤ 3
    ∧ 4 ≤ (nibbleOfOp (Instr.and 0#4 0#4).operation).toNat := by decide

/-- ArithmeticFlagsReportExactResult: an ADD and a SUBAB without overflow. -/
theorem witness_no_overflow : (evalAdd 0b0111#4 0b0000#4).flags = some ⟨false, false, false⟩
    ∧ (evalSubab 0b1000#4 0b0000#4).flags = some ⟨false, false, false⟩ := by decide

/-- AdditionCommutesAndMixedSignsNeverOverflow. -/
theorem witness_mixed_signs : signBit 0b0111#4 ≠ signBit 0b1000#4 := by decide

/-- SubtractionsOfOnePairAreRelated: different operands, equal operands, operands differing in the sign bit only. -/
theorem witness_related_subtractions : (0b0000#4 : Nibble) ≠ 0b0001#4 ∧ (0b1000#4 : Nibble) = 0b1000#4
    ∧ (0b0111#4 : Nibble) ^^^ 0b1111#4 = 0b1000#4 := by decide

/-- OneOperandOperationsIgnoreB: the first of the eight operations; and values of `B` just outside the domain. -/
theorem witness_one_operand : 8 ≤ (nibbleOfOp .pass).toNat ∧ (-1 : Int) < 0 ∧ (15 : Int) < 16 := by decide

/-- EvaluatorHasNoMemory, RequestStepAnswersEvaluate, StepRunsDecodedInstruction: an accepted request presented. -/
theorem witness_request_presented : (demo [.request { a := 7, b := 1, op := 0 }]).inbox = .request { a := 7, b := 1, op := 0 } :: []
    ∧ decodeRequest { a := 7, b := 1, op := 0 } = .ok (.add 7#4 1#4)
    ∧ evaluateWide { a := 7, b := 1, op := 0 } = .ok (evalAdd 7#4 1#4) := ⟨rfl, rfl, rfl⟩

/-- OutOfDomainRequestIsRefused, RequestAfterRefusalIsAnswered, the refusing clause of RequestStepAnswersEvaluate: a
request that fails each check first, then an accepted one. -/
theorem witness_refused_requests :
    ((demo [.request { a := 16, b := 0, op := 0 }, .request (requestOfInstr (.add 7#4 1#4))]).inbox
        = .request { a := 16, b := 0, op := 0 } :: .request (requestOfInstr (.add 7#4 1#4)) :: [])
    ∧ ({ a := 16, b := 0, op := 0 } : Request).wf = false
    ∧ evaluateWide { a := 16, b := 16, op := 16 } = .error .A
    ∧ evaluateWide { a := 15, b := -1, op := 16 } = .error .B
    ∧ evaluateWide { a := 15, b := 15, op := 16 } = .error .OP := ⟨rfl, rfl, rfl, rfl, rfl⟩

/-- PinsCarryResultAndValidFlags: an instruction whose pins carry flags. -/
theorem witness_flag_pins : (pinsOf none (evalAdd 7#4 1#4) 0).fv = true := by decide

/-- DecodeEncodeAgree: a request that decodes to an instruction. -/
theorem witness_encoded_request : requestOfInstr (.ror 15#4 15#4) = { a := 15, b := 15, op := 15 } := by decide

/-- TableRowsStandInEnumerationOrder, RowContentIsTheMachinesAnswer, Full16AgreesWithArith4OnResults: the first two rows
of a table, of every configuration. -/
theorem witness_first_rows :
    (tableRows .arith3)[0]? = some (tableRow .arith3 0#4 0#4 0#4) ∧ (tableRows .arith3)[1]? = some (tableRow .arith3 0#4 0#4 1#4)
    ∧ (tableRows .arith4)[0]? = some (tableRow .arith4 0#4 0#4 0#4)
    ∧ (tableRows .full16)[0]? = some (tableRow .full16 0#4 0#4 0#4) := by decide

/-- RowIndexNumbersTheTable: the last index of the three-opcode table, and an opcode without a row in it. -/
theorem witness_row_index : rowIndex .arith3 15#4 15#4 2#4 = some 767 ∧ 767 < rowCount .arith3 ∧ (3#4 : Nibble) ∉ opcodeList .arith3 := by
  decide

/-- RomHoldsTheTable: a row with flag columns, a row without, and addresses on both sides of the table. -/
theorem witness_rom_clauses : (tableRow .arith3 0#4 0#4 0#4).flags = some ⟨true, false, false⟩
    ∧ (tableRow .full16 0#4 0#4 0#4).flags = none ∧ (-1 : Int) < 0 ∧ rowCount .arith3 = 768 := by decide

/-- LookupReadsRomWithoutSideEffect: a lookup presented, the last address with a row and the first without. -/
theorem witness_lookup : (demo [.lookup 767]).inbox = .lookup 767 :: []
    ∧ (demo []).memRead 767 = some (.withFlags 0b0000100#7) ∧ (demo []).memRead 768 = none := by decide

/-- AcceptedTableHasNoFreedom: an index of a row. -/
theorem witness_accepted_index : 767 < rowCount .arith3 := by decide

/-- RstBeginsGenerationFromAnyState, GenerationEmitsTheTableInOrder, GeneratorEventsLeaveEvaluatorAlone: RST and STEPs
presented, and a sink failure. -/
theorem witness_generation : (demo [.rst, .step, .step]).inbox = .rst :: (List.replicate 2 .step ++ [])
    ∧ (demo [.sinkFailure]).inbox = .sinkFailure :: [] := ⟨rfl, rfl⟩

/-- StepEventAdvancesCursor: a STEP presented in a generation, and a cursor at the boundary of each of its clauses. -/
theorem witness_step_clauses : (demo [.step]).phase = .running ∧ (demo [.step]).inbox = .step :: []
    ∧ (demo [.step]).cur.done = false ∧ 1 < opcodeCount .arith3 - 1 ∧ ¬ 2 < opcodeCount .arith3 - 1
    ∧ (14#4 : Nibble).toNat < 15 ∧ (15#4 : Nibble).toNat = 15
    ∧ { demo [.step] with cur := { a := 0#4, b := 0#4, k := 0, done := true } }.cur.done = true := by decide

/-- RequestsAndLookupsLeaveGeneratorAlone: a request and a lookup, each presented in a generation. -/
theorem witness_requests_and_lookups : (∃ q, (Input.request { a := 0, b := 0, op := 0 }) = .request q)
    ∧ (∃ addr, (Input.lookup 0) = .lookup addr) ∧ (demo [.request { a := 0, b := 0, op := 0 }]).phase = .running
    ∧ (demo [.request { a := 0, b := 0, op := 0 }]).inbox = .request { a := 0, b := 0, op := 0 } :: []
    ∧ (demo [.lookup 0]).inbox = .lookup 0 :: [] := ⟨⟨_, rfl⟩, ⟨_, rfl⟩, rfl, rfl, rfl⟩

/-- After a sink failure in a generation in progress `DONE = done`, here 0 (R88, R99). -/
theorem test_done_after_sink_failure : stepped (demo [.sinkFailure])
    (fun t => decide (t.phase = .aborted ∧ t.doneOut = false)) = true := rfl

/-- RequestsAndLookupsLeaveGeneratorAlone in an aborted generation. -/
theorem witness_lookup_after_abort : ({ demo [.lookup 0] with phase := .aborted } : State).phase ≠ .beforeRst := by decide

/-- SinkFailureAbortsGeneration: a failure in a generation in progress, a STEP after it, and RST. -/
theorem witness_sink_failure : (demo [.sinkFailure, .step, .rst]).phase = .running ∧ (demo [.sinkFailure, .step, .rst]).cur.done = false
    ∧ (demo [.sinkFailure, .step, .rst]).inbox = .sinkFailure :: (List.replicate 1 .step ++ [.rst]) := ⟨rfl, rfl, rfl⟩

/-- NoStepChangesConfigurationOrRom, EveryStepKeepsBlockInvariant: a state that meets the invariant and steps. -/
theorem witness_invariant_step : Inv (demo [.step]) ∧ ∃ t, step (demo [.step]) = .next t :=
  ⟨⟨fun _ => ⟨⟨by decide, by decide⟩, rfl⟩, rfl, rfl⟩, _, rfl⟩

/-- A finished generation of the three-opcode table. -/
def finished : State := { demo [] with cur := { a := 0#4, b := 0#4, k := 0, done := true }, sink := tableRows .arith3 }

/-- DoneMeansWholeTable: a state that meets the invariant with `DONE = 1`. -/
theorem witness_done : Inv finished ∧ finished.phase = .running ∧ finished.doneOut = true := by
  refine ⟨⟨fun _ => ⟨⟨by decide, by decide⟩, ?_⟩, rfl, rfl⟩, rfl, rfl⟩
  show tableRows .arith3 = (tableRows .arith3).take 768
  decide +kernel

end Sys2Proof.Tests
end

/-! The opcode map (spec/30_encoding.md R37, R40): its two directions undo each other. -/

namespace Sys2Proof

/-- The number of the operation that an opcode value selects is that value: the sixteen values are all there are. -/
@[simp] theorem nibbleOfOp_opOfNibble (op : Nibble) : nibbleOfOp (opOfNibble op) = op := by
  revert op
  decide

/-- Each row of the opcode map is read back from its number. -/
@[simp] theorem opOfNibble_nibbleOfOp (o : Op) : opOfNibble (nibbleOfOp o) = o := by
  cases o <;> rfl

/-- Settles O36: the opcode map inverts on each side. -/
theorem everyOpcodeSelectsOneOperation : Obligations.EveryOpcodeSelectsOneOperation :=
  ⟨nibbleOfOp_opOfNibble, opOfNibble_nibbleOfOp⟩

end Sys2Proof

/-! The two views of a nibble and its text (spec/40_conversion.md R45, R46, R49, R50). -/

namespace Sys2Proof.Machine

theorem toUnsigned_lt (v : Nibble) : toUnsigned v < 16 := v.isLt

theorem toUnsigned_injective : Function.Injective toUnsigned :=
  fun _ _ h => BitVec.eq_of_toNat_eq h

/-- Bit `i` as a number is the binary digit of weight `2 ^ i` of the unsigned view. -/
theorem toNat_getLsbD (v : Nibble) (i : Nat) : (v.getLsbD i).toNat = toUnsigned v / 2 ^ i % 2 :=
  Nat.toNat_testBit _ _

/-- The base-2 sum of the unsigned view (R45). -/
theorem toUnsigned_eq_sum (v : Nibble) : toUnsigned v =
    8 * (v.getLsbD 3).toNat + 4 * (v.getLsbD 2).toNat + 2 * (v.getLsbD 1).toNat + (v.getLsbD 0).toNat := by
  have hlt := toUnsigned_lt v
  simp only [toNat_getLsbD]
  omega

/-- The signed view is the unsigned one less 16 times the sign bit (R46). -/
theorem toSigned_eq_sub (v : Nibble) : toSigned v = (toUnsigned v : Int) - 16 * ((signBit v).toNat : Int) := by
  unfold toSigned
  cases signBit v <;> simp

/-- The sign bit splits the nibbles at 8 in the unsigned view (R49). -/
theorem signBit_iff_toUnsigned (v : Nibble) : signBit v = true ↔ 8 ≤ toUnsigned v := by
  have hlt := toUnsigned_lt v
  have hbit : (signBit v).toNat = toUnsigned v / 2 ^ 3 % 2 := toNat_getLsbD v 3
  rw [← Bool.toNat_eq_one, hbit]
  omega

/-- The signed view as a case split on the unsigned one, the form that `omega` reads. -/
theorem toSigned_cases (v : Nibble) :
    (8 ≤ toUnsigned v ∧ toSigned v = (toUnsigned v : Int) - 16) ∨ (toUnsigned v < 8 ∧ toSigned v = toUnsigned v) := by
  unfold toSigned
  split
  next h => exact .inl ⟨(signBit_iff_toUnsigned v).1 h, rfl⟩
  next h => exact .inr ⟨Nat.lt_of_not_le (mt (signBit_iff_toUnsigned v).2 h), rfl⟩

theorem toSigned_bounds (v : Nibble) : -8 ≤ toSigned v ∧ toSigned v ≤ 7 := by
  have hlt := toUnsigned_lt v
  have hs := toSigned_cases v
  omega

/-- The sign bit marks the negative nibbles (R49). -/
theorem signBit_iff_toSigned_neg (v : Nibble) : signBit v = true ↔ toSigned v < 0 := by
  have hlt := toUnsigned_lt v
  have hs := toSigned_cases v
  rw [signBit_iff_toUnsigned]
  omega

/-- The weighted sum of the signed view, with weight -8 for bit 3 (R46). -/
theorem toSigned_eq_sum (v : Nibble) : toSigned v =
    -8 * ((v.getLsbD 3).toNat : Int) + 4 * (v.getLsbD 2).toNat + 2 * (v.getLsbD 1).toNat + (v.getLsbD 0).toNat := by
  have hu := toUnsigned_eq_sum v
  have hs : toSigned v = (toUnsigned v : Int) - 16 * ((v.getLsbD 3).toNat : Int) := toSigned_eq_sub v
  omega

/-- Settles O24: both views are weighted sums of the four bits, and the sign bit tells where they part. -/
theorem nibbleViewsAreWeightedSums : Obligations.NibbleViewsAreWeightedSums := by
  intro v
  obtain ⟨hlo, hhi⟩ := toSigned_bounds v
  exact ⟨toUnsigned_eq_sum v, rfl, toSigned_eq_sum v, signBit_iff_toUnsigned v, signBit_iff_toSigned_neg v,
    Nat.le_of_lt_succ (toUnsigned_lt v), hlo, hhi, fun _ h => toUnsigned_injective h⟩

theorem bitChar_injective : Function.Injective bitChar := by
  unfold Function.Injective
  decide

/-- The text determines the nibble: it shows the four bits, and they make up the unsigned view. -/
theorem bin4_injective : Function.Injective bin4 := by
  intro v w h
  simp only [bin4, List.cons.injEq, bitChar_injective.eq_iff, and_true] at h
  obtain ⟨h3, h2, h1, h0⟩ := h
  apply toUnsigned_injective
  rw [toUnsigned_eq_sum, toUnsigned_eq_sum, h3, h2, h1, h0]

/-- Settles O45: `bin4` lists the bit characters from bit 3 down to bit 0, so no two nibbles share a text. -/
theorem nibbleTextIsFourBinaryDigits : Obligations.NibbleTextIsFourBinaryDigits :=
  ⟨fun _ => rfl, fun _ _ h => bin4_injective h, rfl, rfl⟩

end Sys2Proof.Machine

/-! Serving an instruction (spec/10_state.md R8): it answers its operation's evaluation, and that answer is all that
changes. -/

namespace Sys2Proof.Machine

/-- Putting an evaluation at the outputs touches nothing else. -/
theorem State.respond_onlyAnswerChanges (s : State) (e : Evaluation) : OnlyAnswerChanges s (s.respond e) :=
  ⟨rfl, rfl, rfl, rfl, rfl, rfl, rfl, rfl, rfl, rfl, rfl, fun _ => rfl⟩

/-- An instruction has exactly one answer, whatever the state: its operation's evaluation of its operands. -/
theorem answers_iff {i : Instr} {s : State} {e : Evaluation} :
    Answers i s e ↔ e = evalOp i.operation i.opA i.opB := by
  constructor
  · rintro ⟨t, hexec, hanswer, -⟩
    rw [exec_eq_respond] at hexec
    cases hexec
    simpa using hanswer.symm
  · rintro rfl
    exact ⟨_, exec_eq_respond i s, rfl, s.respond_onlyAnswerChanges _⟩

theorem answers_evalOp (i : Instr) (s : State) : Answers i s (evalOp i.operation i.opA i.opB) :=
  answers_iff.2 rfl

end Sys2Proof.Machine

/-! The arithmetic family (spec/41_arithmetic.md R51 to R56): a rule for each flag, one for each result, and the
obligations assembled from them. -/

namespace Sys2Proof.Machine

/-- A clear sign bit marks the nibbles that are not negative (R49). -/
theorem signBit_eq_false_iff (v : Nibble) : signBit v = false ↔ 0 ≤ toSigned v := by
  rw [← Bool.not_eq_true, signBit_iff_toSigned_neg, not_lt]

theorem zeroFlag_iff (r : Nibble) : zeroFlag r = true ↔ r = 0b0000#4 := beq_iff_eq

theorem carryOut_iff (sum : Nat) : carryOut sum = true ↔ 15 < sum := decide_eq_true_iff

theorem addOverflow_iff (a b r : Nibble) :
    addOverflow a b r = true ↔ signBit a = signBit b ∧ signBit r ≠ signBit a := by
  simp [addOverflow]

/-- A subtraction's Overflow in the signed views (R54). -/
theorem subOverflow_iff (m n r : Nibble) : subOverflow m n r = true ↔
    (0 ≤ toSigned m ∧ toSigned n < 0 ∧ toSigned r < 0) ∨ (toSigned m < 0 ∧ 0 ≤ toSigned n ∧ 0 ≤ toSigned r) := by
  simp [subOverflow, signBit_eq_false_iff, signBit_iff_toSigned_neg, and_assoc]

theorem mulOverflow_iff (p : Int) (r : Nibble) : mulOverflow p r = true ↔ toSigned r ≠ p := bne_iff_ne

theorem toUnsigned_ofNat (n : Nat) : toUnsigned (BitVec.ofNat 4 n) = n % 16 := BitVec.toNat_ofNat n 4

/-- `from_signed` of any integer is that integer mod 16 (R47). -/
theorem toUnsigned_fromSigned (n : Int) : (toUnsigned (fromSigned n) : Int) = n % 16 := by
  rw [fromSigned, toUnsigned_ofNat]
  omega

theorem toUnsigned_evalAdd (a b : Nibble) : toUnsigned (evalAdd a b).r = (toUnsigned a + toUnsigned b) % 16 :=
  (toUnsigned_ofNat _).trans (Nat.mod_mod _ _)

/-- A subtraction that borrows: Carry is 1 and the difference wraps around (R54). -/
theorem subtract_of_lt {m n : Nibble} (h : toUnsigned m < toUnsigned n) :
    borrow m n = true ∧ toUnsigned (subtract m n).r = toUnsigned m + 16 - toUnsigned n := by
  have hb : borrow m n = true := decide_eq_true h
  have hn := toUnsigned_lt n
  refine ⟨hb, ?_⟩
  simp only [subtract, hb, if_true, toUnsigned_ofNat]
  omega

/-- A subtraction without a borrow is exact in the unsigned view (R54). -/
theorem subtract_of_le {m n : Nibble} (h : toUnsigned n ≤ toUnsigned m) :
    borrow m n = false ∧ toUnsigned (subtract m n).r = toUnsigned m - toUnsigned n := by
  have hb : borrow m n = false := decide_eq_false (Nat.not_lt_of_le h)
  have hm := toUnsigned_lt m
  refine ⟨hb, ?_⟩
  simp only [subtract, hb, Bool.false_eq_true, if_false, toUnsigned_ofNat]
  omega

/-- Each of the four arithmetic operations gives flags, and their Zero is `zeroFlag` of the nibble it answers (R51). -/
theorem evalOp_arithmetic_flags {o : Op} (h : o = .add ∨ o = .subab ∨ o = .subba ∨ o = .mul) (a b : Nibble) :
    ∃ f : Flags, (evalOp o a b).flags = some f ∧ f.z = zeroFlag (evalOp o a b).r := by
  obtain rfl | rfl | rfl | rfl := h <;> exact ⟨_, rfl, rfl⟩

/-- Settles O17: whichever the operation, Zero is computed from the answered nibble; the two wrapped examples are
evaluated. -/
theorem zeroFlagTestsWrappedResult : Obligations.ZeroFlagTestsWrappedResult := by
  refine ⟨fun i s h => ?_, fun s => ⟨⟨_, answers_evalOp _ s, rfl⟩, ⟨_, answers_evalOp _ s, rfl⟩⟩⟩
  obtain ⟨f, hf, hz⟩ := evalOp_arithmetic_flags h i.opA i.opB
  exact ⟨_, f, hf ▸ answers_evalOp i s, hz ▸ zeroFlag_iff _⟩

/-- Settles O1: the result rule of ADD and the rules of its three flags. -/
theorem addGivesSumCarryOverflowZero : Obligations.AddGivesSumCarryOverflowZero :=
  fun a b s => ⟨_, _, _, _, answers_evalOp (.add a b) s, toUnsigned_evalAdd a b, carryOut_iff _,
    addOverflow_iff a b _, zeroFlag_iff _⟩

/-- Settles O2: `subtract` with `A` the minuend, at a borrow and without one. -/
theorem subabGivesDifferenceBorrowOverflowZero : Obligations.SubabGivesDifferenceBorrowOverflowZero :=
  fun a b s => ⟨_, _, _, _, answers_evalOp (.subab a b) s, subtract_of_lt, subtract_of_le,
    subOverflow_iff a b _, zeroFlag_iff _⟩

/-- Settles O3: SUBBA is the same `subtract` with `B` the minuend, so it answers what SUBAB answers to the exchanged
operands. -/
theorem subbaGivesReverseDifference : Obligations.SubbaGivesReverseDifference :=
  fun a b s => ⟨_, _, _, _, answers_evalOp (.subba a b) s, answers_evalOp (.subab b a) s, subtract_of_lt,
    subtract_of_le, subOverflow_iff b a _, zeroFlag_iff _⟩

/-- Settles O4: `from_signed` truncates the signed product, and Overflow compares the two. -/
theorem mulGivesTruncatedSignedProduct : Obligations.MulGivesTruncatedSignedProduct :=
  fun a b s => ⟨_, _, _, answers_evalOp (.mul a b) s, toUnsigned_fromSigned _, mulOverflow_iff _ _, zeroFlag_iff _⟩

end Sys2Proof.Machine

/-! Bitwise logic, pass and complement (spec/42_logic.md R61 to R67): the rules of `not4`, and the obligations. -/

namespace Sys2Proof.Machine

/-- `not4` flips each of the four bits (R48). -/
theorem getLsbD_onesComplement (v : Nibble) {i : Nat} (h : i < 4) :
    (onesComplement v).getLsbD i = !v.getLsbD i := by
  simp [onesComplement, h]

/-- `not4` is the complement to 15 in the unsigned view (R48): nothing above bit 3 remains. -/
theorem toUnsigned_onesComplement (v : Nibble) : toUnsigned (onesComplement v) = 15 - toUnsigned v :=
  BitVec.toNat_not

/-- Settles O5: AND answers `a &&& b`. -/
theorem andIsBitwise : Obligations.AndIsBitwise :=
  fun a b s => ⟨a &&& b, answers_evalOp (.and a b) s, fun _ _ => BitVec.getLsbD_and⟩

/-- Settles O6: OR answers `a ||| b`. -/
theorem orIsBitwise : Obligations.OrIsBitwise :=
  fun a b s => ⟨a ||| b, answers_evalOp (.or a b) s, fun _ _ => BitVec.getLsbD_or⟩

/-- Settles O7: XOR answers `a ^^^ b`, and the exclusive or of two bits is their inequality. -/
theorem xorIsBitwise : Obligations.XorIsBitwise := by
  refine fun a b s => ⟨a ^^^ b, answers_evalOp (.xor a b) s, fun i _ => ?_⟩
  rw [BitVec.getLsbD_xor, bne_iff_ne]

/-- Settles O8: NAND answers `not4` of `a &&& b`, whose bits and unsigned view follow from the rules of `not4`. -/
theorem nandIsComplementedAnd : Obligations.NandIsComplementedAnd := by
  refine fun a b s => ⟨onesComplement (a &&& b), answers_evalOp (.nand a b) s, fun i h => ?_,
    toUnsigned_onesComplement _⟩
  rw [getLsbD_onesComplement _ h, BitVec.getLsbD_and]

/-- Settles O9: PASS evaluates to its first operand. -/
theorem passGivesOperandUnchanged : Obligations.PassGivesOperandUnchanged :=
  fun a b s => answers_evalOp (.pass a b) s

end Sys2Proof.Machine

/-! Shifts and rotates (spec/43_shift_rotate.md R69, R70, R72, R73): the bits and the views of a nibble put together
from four bits, and the obligations. -/

namespace Sys2Proof.Machine

/-- The bits of `nibbleOfBits` are its arguments, bit 3 first: checked for the sixteen nibbles. -/
theorem getLsbD_nibbleOfBits (x3 x2 x1 x0 : Bool) :
    (nibbleOfBits x3 x2 x1 x0).getLsbD 3 = x3 ∧ (nibbleOfBits x3 x2 x1 x0).getLsbD 2 = x2
      ∧ (nibbleOfBits x3 x2 x1 x0).getLsbD 1 = x1 ∧ (nibbleOfBits x3 x2 x1 x0).getLsbD 0 = x0 := by
  revert x3 x2 x1 x0
  decide

theorem nibbleOfBits_inj {x3 x2 x1 x0 y3 y2 y1 y0 : Bool} :
    nibbleOfBits x3 x2 x1 x0 = nibbleOfBits y3 y2 y1 y0 ↔ x3 = y3 ∧ x2 = y2 ∧ x1 = y1 ∧ x0 = y0 := by
  constructor
  · intro h
    have hy := getLsbD_nibbleOfBits y3 y2 y1 y0
    rw [← h] at hy
    simpa only [getLsbD_nibbleOfBits] using hy
  · rintro ⟨rfl, rfl, rfl, rfl⟩
    rfl

/-- The base-2 sum of four bits (R45). -/
theorem toUnsigned_nibbleOfBits (x3 x2 x1 x0 : Bool) :
    toUnsigned (nibbleOfBits x3 x2 x1 x0) = 8 * x3.toNat + 4 * x2.toNat + 2 * x1.toNat + x0.toNat := by
  simp only [toUnsigned_eq_sum, getLsbD_nibbleOfBits]

/-- The weighted sum of four bits in the signed view, with weight -8 for the first (R46). -/
theorem toSigned_nibbleOfBits (x3 x2 x1 x0 : Bool) :
    toSigned (nibbleOfBits x3 x2 x1 x0) = -8 * (x3.toNat : Int) + 4 * x2.toNat + 2 * x1.toNat + x0.toNat := by
  simp only [toSigned_eq_sum, getLsbD_nibbleOfBits]

/-- Encoding the signed view again gives the nibble back (R47). -/
theorem fromSigned_toSigned (v : Nibble) : fromSigned (toSigned v) = v := by
  apply toUnsigned_injective
  have hlt := toUnsigned_lt v
  have hs := toSigned_cases v
  have hu := toUnsigned_fromSigned (toSigned v)
  omega

/-- `A[3] ‖ A[3] ‖ A[2] ‖ A[1]`, the bit form of SRA (R72). -/
def repeatSignBit (a : Nibble) : Nibble :=
  nibbleOfBits (a.getLsbD 3) (a.getLsbD 3) (a.getLsbD 2) (a.getLsbD 1)

/-- Moving the bits down one place and repeating the sign bit halves the signed view, rounding down (R72). -/
theorem toSigned_repeatSignBit (a : Nibble) : toSigned (repeatSignBit a) = toSigned a / 2 := by
  have h0 := Bool.toNat_le (a.getLsbD 0)
  rw [repeatSignBit, toSigned_nibbleOfBits, toSigned_eq_sum a]
  omega

/-- SRA's arithmetic form is its bit form (R72). -/
theorem evalSra_eq_repeatSignBit (a b : Nibble) : evalSra a b = noFlags (repeatSignBit a) := by
  rw [evalSra, div2floor, ← toSigned_repeatSignBit, fromSigned_toSigned]

theorem noFlags_inj {r r' : Nibble} : noFlags r = noFlags r' ↔ r = r' :=
  ⟨congrArg Evaluation.r, congrArg noFlags⟩

/-- SRA and SRL differ in bit 3 alone, where SRA has the sign bit and SRL has 0 (R72). -/
theorem evalSra_ne_evalSrl_iff (a b : Nibble) : evalSra a b ≠ evalSrl a b ↔ signBit a = true := by
  rw [evalSra_eq_repeatSignBit, evalSrl, ne_eq, noFlags_inj, repeatSignBit, nibbleOfBits_inj]
  simp [signBit]

/-- Settles O11: SLL answers three bits of `A` and a 0, the binary digits of `2 * u(A) mod 16`. -/
theorem sllDoublesAndDropsTopBit : Obligations.SllDoublesAndDropsTopBit := by
  refine fun a b s => ⟨shiftLeftOne a, answers_evalOp (.sll a b) s, ?_, getLsbD_nibbleOfBits _ _ _ _⟩
  simp only [shiftLeftOne, toUnsigned_nibbleOfBits, toNat_getLsbD, Bool.toNat_false]
  omega

/-- Settles O12: SRL answers a 0 and three bits of `A`, the binary digits of `u(A) / 2`. -/
theorem srlHalvesUnsignedView : Obligations.SrlHalvesUnsignedView := by
  refine fun a b s => ⟨nibbleOfBits false (a.getLsbD 3) (a.getLsbD 2) (a.getLsbD 1), answers_evalOp (.srl a b) s, ?_,
    getLsbD_nibbleOfBits _ _ _ _⟩
  have hlt := toUnsigned_lt a
  simp only [toUnsigned_nibbleOfBits, toNat_getLsbD, Bool.toNat_false]
  omega

/-- Settles O14: SRA's bit form has the halved signed view, and SRL's one answer differs from it in the sign bit. -/
theorem sraHalvesSignedView : Obligations.SraHalvesSignedView := by
  intro a b s
  have hsra := evalSra_eq_repeatSignBit a b
  have hhalf := toSigned_repeatSignBit a
  have hanswers : Answers (.sra a b) s (noFlags (repeatSignBit a)) := hsra ▸ answers_evalOp (.sra a b) s
  have hsrl : signBit a = true ↔ ¬ Answers (.srl a b) s (noFlags (repeatSignBit a)) := by
    rw [answers_iff, ← hsra]
    exact (evalSra_ne_evalSrl_iff a b).symm
  obtain ⟨h3, h2, h1, h0⟩ := getLsbD_nibbleOfBits (a.getLsbD 3) (a.getLsbD 3) (a.getLsbD 2) (a.getLsbD 1)
  exact ⟨repeatSignBit a, hanswers, by omega, by omega, h3, h2, h1, h0, hsrl⟩

/-- Settles O15: ROL answers three bits of `A` and, in place of SLL's 0, the top bit, which is `u(A) / 8`. -/
theorem rolWrapsTopBit : Obligations.RolWrapsTopBit := by
  refine fun a b s => ⟨nibbleOfBits (a.getLsbD 2) (a.getLsbD 1) (a.getLsbD 0) (a.getLsbD 3),
    answers_evalOp (.rol a b) s, ?_, getLsbD_nibbleOfBits _ _ _ _⟩
  have hlt := toUnsigned_lt a
  simp only [toUnsigned_nibbleOfBits, toNat_getLsbD]
  omega

end Sys2Proof.Machine

/-! The truth table (spec/44_truth_table.md R77, R80, R86): its length, its row at an index, the order of the rows'
inputs, and the obligations. -/

namespace Sys2Proof.Machine

/-- An opcode is a nibble, so a configuration has at most sixteen (R76). -/
theorem opcodeCount_le (cfg : Cfg) : opcodeCount cfg ≤ 16 := by cases cfg <;> decide

/-- A loop over the sixteen nibbles whose body emits `n` items each time emits `16 * n`. -/
theorem length_flatMap_nibblesAscending {β : Type} {f : Nibble → List β} {n : Nat} (h : ∀ v, (f v).length = n) :
    (nibblesAscending.flatMap f).length = 16 * n := by
  have hlen : nibblesAscending.length = 16 := rfl
  simp only [List.length_flatMap, h, List.map_const', List.sum_replicate, hlen, smul_eq_mul]

/-- The rows of one value of `A`: a block of the configuration's opcodes for each `B` (R77). -/
theorem length_rowsOfOperand (cfg : Cfg) (a : Nibble) :
    (nibblesAscending.flatMap fun b => (opcodeList cfg).map fun op => tableRow cfg a b op).length
      = 16 * opcodeCount cfg :=
  length_flatMap_nibblesAscending fun _ => List.length_map _

/-- The table has `N` rows (R78). -/
theorem length_tableRows (cfg : Cfg) : (tableRows cfg).length = rowCount cfg := by
  rw [tableRows, length_flatMap_nibblesAscending (length_rowsOfOperand cfg), rowCount]
  omega

/-- Item `j` among the rows of one value of `A`: `B` is the quotient by `NOPS` and the opcode the remainder (R77). -/
theorem rowsOfOperand_getElem? {cfg : Cfg} {j : Nat} (a : Nibble) (h : j < 16 * opcodeCount cfg) :
    (nibblesAscending.flatMap fun b => (opcodeList cfg).map fun op => tableRow cfg a b op)[j]?
      = some (tableRow cfg a (BitVec.ofNat 4 (j / opcodeCount cfg)) (BitVec.ofNat 4 (j % opcodeCount cfg))) := by
  have hn := opcodeCount_pos cfg
  have hb : j / opcodeCount cfg < 16 := Nat.div_lt_of_lt_mul (by rwa [Nat.mul_comm])
  rw [getElem?_flatMap_of_length _ _ hn (fun _ => List.length_map _), nibblesAscending_getElem? _ hb,
    Option.bind_some, List.getElem?_map, opcodeList_getElem? _ _ (Nat.mod_lt _ hn), Option.map_some]

/-- The row at index `i` is the row of `row_inputs i` (R79, R80): the three loops count `i` in the mixed radix
`16, 16, NOPS`. -/
theorem tableRows_getElem? {cfg : Cfg} {i : Nat} (h : i < rowCount cfg) : (tableRows cfg)[i]? =
    some (tableRow cfg (rowInputs cfg i).1 (rowInputs cfg i).2.1 (rowInputs cfg i).2.2) := by
  have hn : 0 < 16 * opcodeCount cfg := Nat.mul_pos (by decide) (opcodeCount_pos cfg)
  have ha : i / (16 * opcodeCount cfg) < 16 := Nat.div_lt_of_lt_mul (by rw [rowCount] at h; omega)
  have hb : i % (16 * opcodeCount cfg) / opcodeCount cfg = i / opcodeCount cfg % 16 := by
    rw [Nat.mul_comm, Nat.mod_mul_right_div_self]
  have hop : i % (16 * opcodeCount cfg) % opcodeCount cfg = i % opcodeCount cfg := Nat.mod_mul_left_mod _ _ _
  rw [tableRows, getElem?_flatMap_of_length _ _ hn (length_rowsOfOperand cfg), nibblesAscending_getElem? _ ha,
    Option.bind_some, rowsOfOperand_getElem? _ (Nat.mod_lt _ hn), hb, hop, rowInputs]

/-- What it means for `x` to stand at index `i` of the table. -/
theorem tableRows_getElem?_eq_some_iff {cfg : Cfg} {i : Nat} {x : Row} : (tableRows cfg)[i]? = some x ↔
    i < rowCount cfg ∧ x = tableRow cfg (rowInputs cfg i).1 (rowInputs cfg i).2.1 (rowInputs cfg i).2.2 := by
  constructor
  · intro hx
    have hi : i < rowCount cfg := length_tableRows cfg ▸ (List.getElem?_eq_some_iff.1 hx).1
    rw [tableRows_getElem? hi] at hx
    exact ⟨hi, (Option.some.inj hx).symm⟩
  · rintro ⟨hi, rfl⟩
    exact tableRows_getElem? hi

/-- The digits of a row index as numbers (R79): none of them is cut off by the four bits of its field. -/
theorem rowInputs_toNat {cfg : Cfg} {i : Nat} (h : i < rowCount cfg) :
    (rowInputs cfg i).1.toNat = i / opcodeCount cfg / 16
      ∧ (rowInputs cfg i).2.1.toNat = i / opcodeCount cfg % 16
      ∧ (rowInputs cfg i).2.2.toNat = i % opcodeCount cfg := by
  have hn := opcodeCount_le cfg
  have hop : i % opcodeCount cfg < opcodeCount cfg := Nat.mod_lt _ (opcodeCount_pos cfg)
  have hq : i / opcodeCount cfg < 256 := Nat.div_lt_of_lt_mul (by rwa [rowCount, Nat.mul_comm] at h)
  simp only [rowInputs, BitVec.toNat_ofNat, Nat.mul_comm 16, ← Nat.div_div_eq_div_mul]
  generalize i / opcodeCount cfg = q at hq ⊢
  omega

/-- A smaller index has the smaller digits in lexicographic order: the quotients by `NOPS` are ordered, and where
they agree the remainders are. -/
theorem rowIndexDigits_lt {i j : Nat} (n : Nat) (h : i < j) :
    i / n / 16 < j / n / 16
      ∨ (i / n / 16 = j / n / 16 ∧ i / n % 16 < j / n % 16)
      ∨ (i / n / 16 = j / n / 16 ∧ i / n % 16 = j / n % 16 ∧ i % n < j % n) := by
  have hle : i / n ≤ j / n := Nat.div_le_div_right h.le
  have hmod : i / n = j / n → i % n < j % n := by
    intro heq
    have hi := Nat.div_add_mod i n
    have hj := Nat.div_add_mod j n
    rw [heq] at hi
    omega
  omega

/-- Two rows stand in the order of their inputs, `A` first and the opcode last (R77). -/
theorem rowInputs_lt_of_lt {cfg : Cfg} {i j : Nat} (hij : i < j) (hj : j < rowCount cfg) :
    (rowInputs cfg i).1.toNat < (rowInputs cfg j).1.toNat
      ∨ ((rowInputs cfg i).1 = (rowInputs cfg j).1 ∧ (rowInputs cfg i).2.1.toNat < (rowInputs cfg j).2.1.toNat)
      ∨ ((rowInputs cfg i).1 = (rowInputs cfg j).1 ∧ (rowInputs cfg i).2.1 = (rowInputs cfg j).2.1
        ∧ (rowInputs cfg i).2.2.toNat < (rowInputs cfg j).2.2.toNat) := by
  obtain ⟨hia, hib, hio⟩ := rowInputs_toNat (hij.trans hj)
  obtain ⟨hja, hjb, hjo⟩ := rowInputs_toNat hj
  simp only [← BitVec.toNat_inj, hia, hib, hio, hja, hjb, hjo]
  exact rowIndexDigits_lt _ hij

/-- Settles O37: the rows stand in the order of the digits of their indices; the first row is at index 0 and the last
at index `N - 1`. -/
theorem tableRowsStandInEnumerationOrder : Obligations.TableRowsStandInEnumerationOrder := by
  have hlast (cfg : Cfg) : (tableRows cfg).getLast? = (tableRows cfg)[rowCount cfg - 1]? := by
    rw [List.getLast?_eq_getElem?, length_tableRows]
  refine ⟨fun cfg i j x y hij hx hy => ?_, fun cfg => ?_, ?_, ?_, ?_⟩
  · obtain ⟨-, rfl⟩ := tableRows_getElem?_eq_some_iff.1 hx
    obtain ⟨hj, rfl⟩ := tableRows_getElem?_eq_some_iff.1 hy
    exact rowInputs_lt_of_lt hij hj
  · rw [List.head?_eq_getElem?, tableRows_getElem? (Nat.mul_pos (by omega) (opcodeCount_pos cfg))]
    simp [rowInputs]
  · exact (hlast _).trans (tableRows_getElem? (by decide))
  · exact (hlast _).trans (tableRows_getElem? (by decide))
  · exact (hlast _).trans (tableRows_getElem? (by decide))

/-- The request of any three nibbles is answered with `evaluate` of them (R2, R36). -/
theorem answers_evaluate (a b op : Nibble) (s : State) :
    Answers (instrOfOp (opOfNibble op) a b) s (evaluate a b op) := by
  unfold evaluate
  cases opOfNibble op <;> exact answers_evalOp _ s

/-- The opcode of a row is in the configuration's list (R76). -/
theorem rowInputs_opcode_mem (cfg : Cfg) (i : Nat) : (rowInputs cfg i).2.2 ∈ opcodeList cfg :=
  List.mem_of_getElem? (opcodeList_getElem? cfg _ (Nat.mod_lt _ (opcodeCount_pos cfg)))

/-- A configuration other than FULL16 has the flag columns, and its opcodes are arithmetic (R76). -/
theorem arithmetic_of_mem_opcodeList {cfg : Cfg} (h : cfg ≠ .full16) : hasFlagColumns cfg = true
    ∧ ∀ op ∈ opcodeList cfg, opOfNibble op = .add ∨ opOfNibble op = .subab ∨ opOfNibble op = .subba
      ∨ opOfNibble op = .mul := by
  cases cfg with
  | arith3 => decide
  | arith4 => decide
  | full16 => exact absurd rfl h

/-- Every row of a configuration other than FULL16 records the flags of its evaluation, which exist (R80). -/
theorem tableRow_flags_of_ne_full16 {cfg : Cfg} (h : cfg ≠ .full16) (a b : Nibble) {op : Nibble}
    (hop : op ∈ opcodeList cfg) :
    (tableRow cfg a b op).flags = (evaluate a b op).flags ∧ (tableRow cfg a b op).flags ≠ none := by
  obtain ⟨hcols, hops⟩ := arithmetic_of_mem_opcodeList h
  obtain ⟨f, hf, -⟩ := evalOp_arithmetic_flags (hops op hop) a b
  have hflags : (tableRow cfg a b op).flags = (evaluate a b op).flags := if_pos hcols
  exact ⟨hflags, hflags.trans hf ▸ Option.some_ne_none f⟩

/-- Settles O40: the row at an index is made by `evaluate`, which is also the machine's answer in every state; the
flag columns follow the schema. -/
theorem rowContentIsTheMachinesAnswer : Obligations.RowContentIsTheMachinesAnswer := by
  intro cfg i x hx
  obtain ⟨-, rfl⟩ := tableRows_getElem?_eq_some_iff.1 hx
  refine ⟨rfl, fun s => ⟨_, answers_evaluate _ _ _ s, rfl, fun hcfg => ?_, ?_⟩⟩
  · exact tableRow_flags_of_ne_full16 hcfg _ _ (rowInputs_opcode_mem cfg i)
  · rintro rfl
    rfl

/-- Settles O48: two lists with the same row at every index are the same list, and past index `N - 1` a list of `N`
rows has none. -/
theorem acceptedTableHasNoFreedom : Obligations.AcceptedTableHasNoFreedom := by
  intro cfg rows
  rw [acceptsTable, decide_eq_true_iff]
  constructor
  · rintro rfl
    exact ⟨length_tableRows cfg, fun _ => tableRows_getElem?⟩
  · rintro ⟨hlen, hrows⟩
    refine List.ext_getElem? fun i => ?_
    rcases Nat.lt_or_ge i (rowCount cfg) with hi | hi
    · rw [hrows i hi, tableRows_getElem? hi]
    · rw [List.getElem?_eq_none (hlen ▸ hi), List.getElem?_eq_none (length_tableRows cfg ▸ hi)]

end Sys2Proof.Machine

/-! Decoding and encoding (spec/30_encoding.md R33, R34, R36, D6): an instruction and its three fields, the number
of a packed word, and the requests that decode. -/

namespace Sys2Proof

/-- An instruction is its operation on its two operand fields. -/
@[simp] theorem instrOfOp_operation (i : Instr) : instrOfOp i.operation i.opA i.opB = i := by
  cases i <;> rfl

@[simp] theorem operation_instrOfOp (o : Op) (a b : Nibble) : (instrOfOp o a b).operation = o := by
  cases o <;> rfl

@[simp] theorem opA_instrOfOp (o : Op) (a b : Nibble) : (instrOfOp o a b).opA = a := by
  cases o <;> rfl

@[simp] theorem opB_instrOfOp (o : Op) (a b : Nibble) : (instrOfOp o a b).opB = b := by
  cases o <;> rfl

/-- Putting a nibble behind a bit string multiplies its number by 16. -/
theorem toNat_append_nibble {w : Nat} (x : BitVec w) (v : Nibble) : (x ++ v).toNat = 16 * x.toNat + v.toNat := by
  rw [BitVec.toNat_append, ← Nat.shiftLeft_add_eq_or_of_lt v.isLt, Nat.shiftLeft_eq]
  omega

/-- The packed word as a number (R34). -/
theorem toNat_encode (i : Instr) :
    (encode i).toNat = 256 * i.opA.toNat + 16 * i.opB.toNat + (nibbleOfOp i.operation).toNat := by
  rw [encode, toNat_append_nibble, toNat_append_nibble]
  omega

theorem decodeW12_encode (i : Instr) : decodeW12 (encode i) = i := by
  obtain ⟨ha, hb, hop⟩ := Laws.fields_of_append i.opA i.opB (nibbleOfOp i.operation)
  simp only [decodeW12, encode, ha, hb, hop, opOfNibble_nibbleOfOp, instrOfOp_operation]

theorem encode_decodeW12 (w : W12) : encode (decodeW12 w) = w := by
  apply BitVec.eq_of_toNat_eq
  have hw := w.isLt
  rw [toNat_encode]
  simp only [decodeW12, operation_instrOfOp, opA_instrOfOp, opB_instrOfOp, nibbleOfOp_opOfNibble,
    BitVec.extractLsb'_toNat, Nat.shiftRight_eq_div_pow]
  omega

/-- An integer in the domain is the number of the nibble it becomes: nothing is truncated (R94). -/
theorem toNat_ofInt_of_domain {x : Int} (h : 0 ≤ x ∧ x ≤ 15) : ((BitVec.ofInt 4 x).toNat : Int) = x := by
  rw [BitVec.toNat_ofInt]
  omega

/-- A request decodes exactly when no field is out of domain, and then field by field (R36). -/
theorem decodeRequest_eq_ok_iff {q : Request} {i : Instr} : decodeRequest q = .ok i ↔
    q.violation = none ∧ instrOfOp (opOfNibble (BitVec.ofInt 4 q.op)) (BitVec.ofInt 4 q.a) (BitVec.ofInt 4 q.b) = i := by
  unfold decodeRequest
  cases q.violation <;> simp

/-- The refusal names the first field out of domain (R93, D12). -/
theorem decodeRequest_eq_error_iff {q : Request} {f : Field} :
    decodeRequest q = .error f ↔ q.violation = some f := by
  unfold decodeRequest
  cases q.violation <;> simp

/-- The request of an instruction is within the domain: its fields are nibbles. -/
theorem violation_requestOfInstr (i : Instr) : (requestOfInstr i).violation = none := by
  have ha := i.opA.isLt
  have hb := i.opB.isLt
  have hop := (nibbleOfOp i.operation).isLt
  rw [Machine.Request.violation_eq_none_iff]
  simp only [requestOfInstr]
  omega

theorem decodeRequest_requestOfInstr (i : Instr) : decodeRequest (requestOfInstr i) = .ok i := by
  rw [decodeRequest_eq_ok_iff]
  refine ⟨violation_requestOfInstr i, ?_⟩
  simp only [requestOfInstr, BitVec.ofInt_natCast, BitVec.ofNat_toNat, BitVec.setWidth_eq, opOfNibble_nibbleOfOp,
    instrOfOp_operation]

/-- A request within the domain is the request of the instruction its fields select. -/
theorem requestOfInstr_of_violation_eq_none {q : Request} (h : q.violation = none) :
    requestOfInstr (instrOfOp (opOfNibble (BitVec.ofInt 4 q.op)) (BitVec.ofInt 4 q.a) (BitVec.ofInt 4 q.b)) = q := by
  obtain ⟨ha, hb, hop⟩ := (Machine.Request.violation_eq_none_iff q).1 h
  simp only [requestOfInstr, operation_instrOfOp, opA_instrOfOp, opB_instrOfOp, nibbleOfOp_opOfNibble,
    toNat_ofInt_of_domain ha, toNat_ofInt_of_domain hb, toNat_ofInt_of_domain hop]

/-- Settles O33: the packed word holds each field whole, and a request of three integers that passes the checks has
lost nothing on its way to nibbles. -/
theorem decodeEncodeAgree : Obligations.DecodeEncodeAgree := by
  refine ⟨decodeW12_encode, encode_decodeW12, fun q i => ⟨fun h => ?_, ?_⟩⟩
  · obtain ⟨hdomain, rfl⟩ := decodeRequest_eq_ok_iff.1 h
    exact (requestOfInstr_of_violation_eq_none hdomain).symm
  · rintro rfl
    exact decodeRequest_requestOfInstr i

/-- Settles O35: the decoder is run on each of the ten words. -/
theorem sampleWordsDecode : Obligations.SampleWordsDecode :=
  ⟨rfl, rfl, rfl, rfl, rfl, rfl, rfl, rfl, rfl, rfl⟩

end Sys2Proof

/-! Serving a request (spec/10_state.md R8, R16, spec/30_encoding.md R36, spec/60_exceptions.md R93 to R100): what one
step does with the request at the head of the inbox, said once, and the obligations. -/

namespace Sys2Proof.Machine

/-- What the evaluator's outputs carry for a request at its inputs: the answer that `EvaluatorInv` names. -/
def answerTo (q : Request) : Answer :=
  match evaluateWide q with
  | .ok e => .evaluated e
  | .error f => .domainViolation f

theorem evaluatorInv_iff (s : State) : EvaluatorInv s ↔ s.answer = s.request.map answerTo := Iff.rfl

theorem answerTo_of_ok {q : Request} {e : Evaluation} (h : evaluateWide q = .ok e) : answerTo q = .evaluated e := by
  rw [answerTo, h]

theorem answerTo_of_error {q : Request} {f : Field} (h : evaluateWide q = .error f) :
    answerTo q = .domainViolation f := by
  rw [answerTo, h]

theorem evaluateWide_of_domain {q : Request} (h : q.violation = none) : evaluateWide q =
    .ok (evaluate (BitVec.ofInt 4 q.a) (BitVec.ofInt 4 q.b) (BitVec.ofInt 4 q.op)) := by
  rw [evaluateWide, h]

theorem evaluateWide_of_violation {q : Request} {f : Field} (h : q.violation = some f) :
    evaluateWide q = .error f := by
  rw [evaluateWide, h]

/-- An encoded request is answered with `evaluate` of the instruction's fields. -/
theorem evaluateWide_requestOfInstr (i : Instr) :
    evaluateWide (requestOfInstr i) = .ok (evaluate i.opA i.opB (nibbleOfOp i.operation)) := by
  rw [evaluateWide_of_domain (violation_requestOfInstr i)]
  simp only [requestOfInstr, BitVec.ofInt_natCast, BitVec.ofNat_toNat, BitVec.setWidth_eq]

/-- Serving a request, accepted or refused, sets the evaluator's inputs and outputs and nothing else. -/
theorem serve_request (q : Request) (s : State) :
    serve (.request q) s = .next { s with request := some q, answer := some (answerTo q) } := by
  cases h : q.violation with
  | none =>
    obtain ⟨e, hserve, he⟩ : ∃ e, serve (.request q) s = .next ((s.present q).respond e) ∧ evaluateWide q = .ok e := by
      refine ⟨_, ?_, evaluateWide_of_domain h⟩
      rw [serve_request_ok (decodeRequest_eq_ok_iff.2 ⟨h, rfl⟩), exec_eq_respond, operation_instrOfOp,
        opA_instrOfOp, opB_instrOfOp, evaluate]
    rw [hserve, answerTo_of_ok he]
    rfl
  | some f =>
    rw [serve_request_error (decodeRequest_eq_error_iff.2 h), answerTo_of_error (evaluateWide_of_violation h)]
    rfl

/-- One step on a presented request (R8, R36): a function of the request alone is written to the outputs. -/
theorem step_of_request {s : State} {q : Request} {rest : List Input} (h : s.inbox = .request q :: rest) :
    step s = .next { s with inbox := rest, freeIdx := s.freeIdx + 1, request := some q,
                            answer := some (answerTo q) } := by
  rw [step_of_cons h, serve_request]
  rfl

/-- Settles O26: the answer is `answerTo` of the request, which reads no state. -/
theorem evaluatorHasNoMemory : Obligations.EvaluatorHasNoMemory :=
  fun q _ _ _ _ h1 h2 => ⟨answerTo q, step_of_request h1, step_of_request h2⟩

/-- Settles O27: the step answers `answerTo` of the request, in both outcomes of `evaluateWide`. -/
theorem requestStepAnswersEvaluate : Obligations.RequestStepAnswersEvaluate :=
  fun _ _ _ h => ⟨_, step_of_request h, rfl, rfl, rfl, rfl, rfl, rfl,
    fun _ he => congrArg some (answerTo_of_ok he), fun _ hf => congrArg some (answerTo_of_error hf)⟩

/-- Settles O28: the request taken, serving it is executing what it decodes to. -/
theorem stepRunsDecodedInstruction : Obligations.StepRunsDecodedInstruction := by
  intro s q rest i hinbox hdecode
  rw [step_of_cons hinbox, serve_request_ok hdecode]
  rfl

/-- A violation names the first of the three fields that is out of domain, in the order `A`, `B`, `OP` (R98, D12). -/
theorem violation_eq_some_cases {q : Request} {f : Field} (h : q.violation = some f) :
    (f = .A ∧ ¬ (0 ≤ q.a ∧ q.a ≤ 15))
      ∨ (f = .B ∧ (0 ≤ q.a ∧ q.a ≤ 15) ∧ ¬ (0 ≤ q.b ∧ q.b ≤ 15))
      ∨ (f = .OP ∧ (0 ≤ q.a ∧ q.a ≤ 15) ∧ (0 ≤ q.b ∧ q.b ≤ 15) ∧ ¬ (0 ≤ q.op ∧ q.op ≤ 15)) := by
  simp only [Request.violation, inDomain, Bool.not_eq_true', decide_eq_false_iff_not] at h
  split at h
  next ha => exact .inl ⟨(Option.some.inj h).symm, ha⟩
  next ha =>
    split at h
    next hb => exact .inr (.inl ⟨(Option.some.inj h).symm, not_not.1 ha, hb⟩)
    next hb =>
      split at h
      next hop => exact .inr (.inr ⟨(Option.some.inj h).symm, not_not.1 ha, not_not.1 hb, hop⟩)
      next => exact absurd h (by simp)

/-- Settles O29: the refused request's answer names its violation, whose three cases exclude each other. -/
theorem outOfDomainRequestIsRefused : Obligations.OutOfDomainRequestIsRefused := by
  intro s q rest hinbox hout
  have hviolated : q.violation ≠ none := by
    rw [ne_eq, Request.violation_eq_none_iff]
    tauto
  obtain ⟨f, hf⟩ := Option.ne_none_iff_exists'.1 hviolated
  refine ⟨f, answerTo_of_error (evaluateWide_of_violation hf) ▸ step_of_request hinbox, ?_⟩
  obtain ⟨rfl, ha⟩ | ⟨rfl, ha, hb⟩ | ⟨rfl, ha, hb, -⟩ := violation_eq_some_cases hf <;> simp [*]

/-- Settles O30: the second step answers by `evaluate` whatever the first one left at the outputs. -/
theorem requestAfterRefusalIsAnswered : Obligations.RequestAfterRefusalIsAnswered := by
  intro s q i rest _ hinbox
  have hrun : core.run 2 s = .next _ :=
    (core_run_succ 1 (step_of_request hinbox)).trans (core_run_succ 0 (step_of_request rfl))
  exact ⟨_, hrun, rfl, congrArg some (answerTo_of_ok (evaluateWide_requestOfInstr i))⟩

/-- Every step ends in a next state (log entry 2). -/
theorem exists_step_eq_next (s : State) : ∃ t, step s = .next t := by
  cases h : s.inbox with
  | nil => exact ⟨s, step_of_nil h⟩
  | cons x rest =>
    rw [step_of_cons h]
    cases x with
    | request q => exact ⟨_, serve_request q _⟩
    | rst => exact ⟨_, serve_rst _⟩
    | step => exact ⟨_, serve_step _⟩
    | sinkFailure => exact ⟨_, serve_sinkFailure _⟩
    | lookup addr => exact ⟨_, serve_lookup addr _⟩

/-- Settles O31: whatever is presented is served to a next state, and every instruction answers its evaluation. -/
theorem noStepStops : Obligations.NoStepStops :=
  ⟨exists_step_eq_next, fun i s => ⟨_, answers_evalOp i s⟩⟩

/-- Every operation above the arithmetic ones answers without flags (R12). -/
theorem evalOp_flags_eq_none {o : Op} (h : 4 ≤ (nibbleOfOp o).toNat) (a b : Nibble) : (evalOp o a b).flags = none := by
  cases o with
  | add | subab | subba | mul => exact absurd h (by decide)
  | _ => rfl

/-- The opcodes 0 to 3 are the arithmetic operations (R37). -/
theorem arithmetic_of_nibbleOfOp_le {o : Op} (h : (nibbleOfOp o).toNat ≤ 3) :
    o = .add ∨ o = .subab ∨ o = .subba ∨ o = .mul := by
  revert h
  cases o <;> decide

/-- The two high bits of an opcode are 0 exactly for the opcodes 0 to 3. -/
theorem nibble_le_three_iff (v : Nibble) : v.toNat ≤ 3 ↔ v.getLsbD 3 = false ∧ v.getLsbD 2 = false := by
  revert v
  decide

/-- An answer without flags shows the result and `FV = 0`, whatever the other three pins (R17). -/
theorem pinsOf_of_none {e : Evaluation} (h : e.flags = none) (q : Option Request) (n : Nat) :
    (pinsOf q e n).y = e.r ∧ (pinsOf q e n).fv = false := by
  rw [pinsOf, h]
  exact ⟨rfl, rfl⟩

/-- An answer with flags shows the result, `FV = 1` and the flags (R16). -/
theorem pinsOf_of_some {e : Evaluation} {f : Flags} (h : e.flags = some f) (q : Option Request) (n : Nat) :
    pinsOf q e n = { y := e.r, fv := true, z := f.z, c := f.c, v := f.v } := by
  rw [pinsOf, h]

/-- Settles O32: the pins show the instruction's evaluation, which has flags exactly for the opcodes 0 to 3. -/
theorem pinsCarryResultAndValidFlags : Obligations.PinsCarryResultAndValidFlags := by
  intro i s
  refine ⟨_, _, _, exec_eq_respond i s, rfl, rfl, ?_⟩
  rw [← nibble_le_three_iff]
  rcases Nat.lt_or_ge 3 (nibbleOfOp i.operation).toNat with h | h
  · obtain ⟨hy, hfv⟩ := pinsOf_of_none (evalOp_flags_eq_none h i.opA i.opB) s.request s.freeIdx
    exact ⟨hy, by simp [hfv, h], by simp [hfv]⟩
  · obtain ⟨f, hf, -⟩ := evalOp_arithmetic_flags (arithmetic_of_nibbleOfOp_le h) i.opA i.opB
    have hpins := pinsOf_of_some hf s.request s.freeIdx
    exact ⟨by simp [hpins], by simp [hpins, h], by simp [hpins, hf]⟩

end Sys2Proof.Machine

/-! Laws of the values (spec/40_conversion.md R47, R48; spec/41_arithmetic.md R53 to R59): `from_signed` and `not4`
as maps of the views, the exact result of an addition and a subtraction, and the obligations. -/

namespace Sys2Proof.Machine

theorem fromSigned_toUnsigned (v : Nibble) : fromSigned (toUnsigned v) = v := by
  apply toUnsigned_injective
  have hlt := toUnsigned_lt v
  have hu := toUnsigned_fromSigned (toUnsigned v)
  omega

/-- `from_signed` is exact in the signed view on -8 to 7 and nowhere else (R47). -/
theorem toSigned_fromSigned_eq_iff (n : Int) : toSigned (fromSigned n) = n ↔ -8 ≤ n ∧ n ≤ 7 := by
  have hu := toUnsigned_fromSigned n
  have hs := toSigned_cases (fromSigned n)
  omega

theorem onesComplement_onesComplement (v : Nibble) : onesComplement (onesComplement v) = v := by
  apply toUnsigned_injective
  have hlt := toUnsigned_lt v
  rw [toUnsigned_onesComplement, toUnsigned_onesComplement]
  omega

/-- Settles O25: `from_signed` is reduction mod 16, so it inverts both views, and `not4` is the complement to 15. -/
theorem fromSignedWrapsEveryInteger : Obligations.FromSignedWrapsEveryInteger :=
  ⟨fun n => ⟨toUnsigned_fromSigned n, toSigned_fromSigned_eq_iff n⟩,
    fun v => ⟨fromSigned_toSigned v, fromSigned_toUnsigned v, fun _ h => getLsbD_onesComplement v h,
      toUnsigned_onesComplement v, onesComplement_onesComplement v⟩⟩

/-- The complement to 15 in the signed view (R67). -/
theorem toSigned_onesComplement (v : Nibble) : toSigned (onesComplement v) = -toSigned v - 1 := by
  have hlt := toUnsigned_lt v
  have hu := toUnsigned_onesComplement v
  have hs := toSigned_cases v
  have hs' := toSigned_cases (onesComplement v)
  omega

/-- Settles O10: NOT answers `not4` of `A`. -/
theorem notFlipsAllFourBits : Obligations.NotFlipsAllFourBits :=
  fun a b s => ⟨onesComplement a, answers_evalOp (.not a b) s, fun _ h => getLsbD_onesComplement a h,
    toUnsigned_onesComplement a, toSigned_onesComplement a⟩

/-- A nibble is put together from its four bits. -/
theorem nibbleOfBits_getLsbD (v : Nibble) :
    nibbleOfBits (v.getLsbD 3) (v.getLsbD 2) (v.getLsbD 1) (v.getLsbD 0) = v := by
  apply toUnsigned_injective
  rw [toUnsigned_nibbleOfBits, ← toUnsigned_eq_sum]

/-- Rotating right and then left gives the nibble back (R73, R74). -/
theorem evalRol_evalRor (a b : Nibble) : evalRol (evalRor a b).r b = noFlags a := by
  simp only [evalRol, evalRor, noFlags, getLsbD_nibbleOfBits, nibbleOfBits_getLsbD]

/-- Rotating left and then right gives the nibble back (R74's round-trip law). -/
theorem evalRor_evalRol (a b : Nibble) : evalRor (evalRol a b).r b = noFlags a := by
  simp only [evalRol, evalRor, noFlags, getLsbD_nibbleOfBits, nibbleOfBits_getLsbD]

/-- Settles O16: ROR answers the bottom bit, which is `u(A) mod 2`, above the other three; each rotation undoes the
other. -/
theorem rorWrapsBottomBit : Obligations.RorWrapsBottomBit := by
  intro a b s
  have hview : toUnsigned (evalRor a b).r = toUnsigned a / 2 + 8 * (toUnsigned a % 2) := by
    have hlt := toUnsigned_lt a
    simp only [evalRor, noFlags, toUnsigned_nibbleOfBits, toNat_getLsbD]
    omega
  obtain ⟨h3, h2, h1, h0⟩ := getLsbD_nibbleOfBits (a.getLsbD 0) (a.getLsbD 3) (a.getLsbD 2) (a.getLsbD 1)
  exact ⟨(evalRor a b).r, answers_evalOp (.ror a b) s, hview, h3, h2, h1, h0,
    answers_iff.2 (evalRol_evalRor a b).symm, (evalRol a b).r, answers_evalOp (.rol a b) s,
    answers_iff.2 (evalRor_evalRol a b).symm⟩

/-- A nibble that holds an exact result `n` mod 16 shows it in the signed view unless `n` is outside -8 to 7. -/
theorem toSigned_ne_iff_of_emod {r : Nibble} {n : Int} (h : (toUnsigned r : Int) = n % 16) :
    toSigned r ≠ n ↔ n < -8 ∨ 7 < n := by
  have hs := toSigned_cases r
  omega

/-- ADD's result is the exact signed sum mod 16. -/
theorem evalAdd_signed_emod (a b : Nibble) :
    (toUnsigned (evalAdd a b).r : Int) = (toSigned a + toSigned b) % 16 := by
  have hr := toUnsigned_evalAdd a b
  have hsa := toSigned_cases a
  have hsb := toSigned_cases b
  omega

theorem signBit_eq_iff (v w : Nibble) : signBit v = signBit w ↔ (8 ≤ toUnsigned v ↔ 8 ≤ toUnsigned w) := by
  rw [Bool.eq_iff_iff, signBit_iff_toUnsigned, signBit_iff_toUnsigned]

/-- ADD's Overflow says that the result is not the exact signed sum (R53). -/
theorem addOverflow_evalAdd_iff (a b : Nibble) :
    addOverflow a b (evalAdd a b).r = true ↔ toSigned (evalAdd a b).r ≠ toSigned a + toSigned b := by
  have hr := toUnsigned_evalAdd a b
  have ha := toUnsigned_lt a
  have hb := toUnsigned_lt b
  have hsa := toSigned_cases a
  have hsb := toSigned_cases b
  have hsr := toSigned_cases (evalAdd a b).r
  rw [addOverflow_iff, ne_eq, signBit_eq_iff, signBit_eq_iff]
  omega

/-- ADD's result in the unsigned view, made exact by the Carry (R53). -/
theorem evalAdd_unsigned_exact (a b : Nibble) : (toUnsigned (evalAdd a b).r : Int) =
    (toUnsigned a : Int) + toUnsigned b - 16 * (carryOut (toUnsigned a + toUnsigned b)).toNat := by
  have ha := toUnsigned_lt a
  have hb := toUnsigned_lt b
  have hr := toUnsigned_evalAdd a b
  unfold carryOut
  by_cases hc : 15 < toUnsigned a + toUnsigned b
  · rw [decide_eq_true hc, Bool.toNat_true]
    omega
  · rw [decide_eq_false hc, Bool.toNat_false]
    omega

/-- A subtraction's result in the unsigned view, made exact by the borrow (R54). -/
theorem subtract_unsigned_exact (m n : Nibble) :
    (toUnsigned (subtract m n).r : Int) = (toUnsigned m : Int) - toUnsigned n + 16 * (borrow m n).toNat := by
  rcases Nat.lt_or_ge (toUnsigned m) (toUnsigned n) with h | h
  · obtain ⟨hc, hr⟩ := subtract_of_lt h
    have hn := toUnsigned_lt n
    rw [hc, Bool.toNat_true]
    omega
  · obtain ⟨hc, hr⟩ := subtract_of_le h
    rw [hc, Bool.toNat_false]
    omega

/-- A subtraction's result is the exact signed difference mod 16. -/
theorem subtract_signed_emod (m n : Nibble) :
    (toUnsigned (subtract m n).r : Int) = (toSigned m - toSigned n) % 16 := by
  have hr := subtract_unsigned_exact m n
  have hlt := toUnsigned_lt (subtract m n).r
  have hsm := toSigned_cases m
  have hsn := toSigned_cases n
  omega

/-- A subtraction's Overflow says that the result is not the exact signed difference (R54). -/
theorem subOverflow_subtract_iff (m n : Nibble) :
    subOverflow m n (subtract m n).r = true ↔ toSigned (subtract m n).r ≠ toSigned m - toSigned n := by
  have hr := subtract_signed_emod m n
  have hsm := toSigned_bounds m
  have hsn := toSigned_bounds n
  have hsr := toSigned_cases (subtract m n).r
  rw [subOverflow_iff]
  omega

/-- A borrow is the inverse of the carry out of `A + not4(B) + 1` (R58). -/
theorem borrow_iff_no_carry (m n : Nibble) :
    borrow m n = true ↔ toUnsigned m + toUnsigned (onesComplement n) + 1 ≤ 15 := by
  have hn := toUnsigned_lt n
  rw [borrow, decide_eq_true_iff, toUnsigned_onesComplement]
  omega

/-- MUL's low nibble is that of the unsigned product: each view differs from the other by a multiple of 16. -/
theorem toUnsigned_evalMul (a b : Nibble) : toUnsigned (evalMul a b).r = toUnsigned a * toUnsigned b % 16 := by
  have hview (v : Nibble) : toSigned v ≡ toUnsigned v [ZMOD 16] := by
    have hs := toSigned_cases v
    unfold Int.ModEq
    omega
  have hr : (toUnsigned (evalMul a b).r : Int) = toSigned a * toSigned b % 16 := toUnsigned_fromSigned _
  have hprod : toSigned a * toSigned b % 16 = (toUnsigned a : Int) * toUnsigned b % 16 := (hview a).mul (hview b)
  rw [hprod] at hr
  exact_mod_cast hr

/-- The three forms of an Overflow flag: an inexact signed result, and an exact one out of range. -/
theorem overflow_forms {v : Bool} {r : Nibble} {n : Int} (hv : v = true ↔ toSigned r ≠ n)
    (hr : (toUnsigned r : Int) = n % 16) : (v = true ↔ n < -8 ∨ 7 < n) ∧ (v = false → toSigned r = n) := by
  refine ⟨hv.trans (toSigned_ne_iff_of_emod hr), fun h => ?_⟩
  rw [h] at hv
  exact not_not.1 (mt hv.2 Bool.false_ne_true)

/-- Settles O19: each result is the exact signed one mod 16, and each Overflow compares the two. -/
theorem arithmeticFlagsReportExactResult : Obligations.ArithmeticFlagsReportExactResult := by
  intro a b s
  refine ⟨⟨_, _, answers_evalOp (.add a b) s, ?_⟩, ⟨_, _, answers_evalOp (.subab a b) s, ?_⟩,
    ⟨_, _, answers_evalOp (.mul a b) s, ?_⟩⟩
  · obtain ⟨hrange, hexact⟩ := overflow_forms (addOverflow_evalAdd_iff a b) (evalAdd_signed_emod a b)
    exact ⟨hrange, hexact, evalAdd_unsigned_exact a b⟩
  · obtain ⟨hrange, hexact⟩ := overflow_forms (subOverflow_subtract_iff a b) (subtract_signed_emod a b)
    exact ⟨hrange, hexact, subtract_unsigned_exact a b, borrow_iff_no_carry a b⟩
  · obtain ⟨hrange, -⟩ := overflow_forms (mulOverflow_iff _ _) (toUnsigned_fromSigned (toSigned a * toSigned b))
    exact ⟨hrange, toUnsigned_evalMul a b⟩

/-- The test of ADD's Overflow is symmetric in the operands. -/
theorem addOverflow_comm (a b r : Nibble) : addOverflow a b r = addOverflow b a r := by
  unfold addOverflow
  cases signBit a <;> cases signBit b <;> rfl

theorem evalAdd_comm (a b : Nibble) : evalAdd a b = evalAdd b a := by
  simp only [evalAdd, Nat.add_comm (toUnsigned b) (toUnsigned a), addOverflow_comm b a]

theorem evalMul_comm (a b : Nibble) : evalMul a b = evalMul b a := by
  rw [evalMul, evalMul, Int.mul_comm]

/-- Instructions with equal evaluations have equal outcomes in every state. -/
theorem exec_congr {i j : Instr} (h : evalOp i.operation i.opA i.opB = evalOp j.operation j.opA j.opB) (s : State) :
    exec i s = exec j s := by
  rw [exec_eq_respond, exec_eq_respond, h]

/-- Settles O20: the sum, the product and their flags do not depend on the operands' order, and Overflow asks for equal
sign bits. -/
theorem additionCommutesAndMixedSignsNeverOverflow : Obligations.AdditionCommutesAndMixedSignsNeverOverflow := by
  intro a b s
  refine ⟨exec_congr (i := .add a b) (j := .add b a) (evalAdd_comm a b) s,
    exec_congr (i := .mul a b) (j := .mul b a) (evalMul_comm a b) s,
    fun hsigns => ⟨_, _, answers_evalOp (.add a b) s, ?_⟩⟩
  exact Bool.eq_false_iff.2 (mt (addOverflow_iff a b _).1 fun h => hsigns h.1)

/-- Operands that differ in the sign bit alone are 8 apart: checked for the 256 pairs. -/
theorem xor_eq_signBit_iff (a b : Nibble) :
    a ^^^ b = 0b1000#4 ↔ toUnsigned a = toUnsigned b + 8 ∨ toUnsigned b = toUnsigned a + 8 := by
  revert a b
  decide +kernel

/-- The borrows of the two subtractions of a pair: one of them, unless the operands are equal. -/
theorem borrow_swap {a b : Nibble} (h : a ≠ b) : borrow a b = !borrow b a := by
  have hne : toUnsigned a ≠ toUnsigned b := mt (fun he => toUnsigned_injective he) h
  rw [borrow, borrow, ← decide_not, decide_eq_decide]
  omega

theorem borrow_self (a : Nibble) : borrow a a = false := decide_eq_false (Nat.lt_irrefl _)

/-- The Overflow of a subtraction in the signed views of its operands. -/
theorem subOverflow_subtract_iff_range (m n : Nibble) : subOverflow m n (subtract m n).r = true ↔
    toSigned m - toSigned n < -8 ∨ 7 < toSigned m - toSigned n :=
  (subOverflow_subtract_iff m n).trans (toSigned_ne_iff_of_emod (subtract_signed_emod m n))

/-- Settles O21: the exact differences are opposite, so only a difference of 8, which does not fit where -8 does, makes
the two Overflows disagree. -/
theorem subtractionsOfOnePairAreRelated : Obligations.SubtractionsOfOnePairAreRelated := by
  intro a b s
  have ha := toUnsigned_lt a
  have hb := toUnsigned_lt b
  have hsa := toSigned_cases a
  have hsb := toSigned_cases b
  have hab := subOverflow_subtract_iff_range a b
  have hba := subOverflow_subtract_iff_range b a
  refine ⟨_, _, _, _, answers_evalOp (.subab a b) s, answers_evalOp (.subba a b) s, ?_, borrow_swap, ?_, ?_, ?_⟩
  · have hr1 := subtract_signed_emod a b
    have hr2 := subtract_signed_emod b a
    show (toUnsigned (subtract a b).r + toUnsigned (subtract b a).r) % 16 = 0
    omega
  · rintro rfl
    exact ⟨borrow_self a, borrow_self a⟩
  · rw [xor_eq_signBit_iff, ne_eq, Bool.eq_iff_iff]
    refine (not_congr (iff_congr hab hba)).trans ?_
    omega
  · rw [xor_eq_signBit_iff]
    intro h8
    refine hab.trans ?_
    omega

/-- A byte of two nibbles, unsigned. -/
theorem toNat_byte (h l : Nibble) : (h ++ l).toNat = 16 * toUnsigned h + toUnsigned l := toNat_append_nibble h l

/-- A byte of two nibbles, signed: the high nibble carries the sign. -/
theorem toInt_byte (h l : Nibble) : (h ++ l).toInt = 16 * toSigned h + toUnsigned l := by
  have hs := toSigned_cases h
  have hl := toUnsigned_lt l
  rw [BitVec.toInt_eq_toNat_cond, toNat_byte]
  split <;> omega

/-- What an ADD answers, in both views: the unsigned sum up to the Carry, the signed sum mod 16, and Overflow where that
sum does not fit. -/
theorem evalAdd_spec (a b : Nibble) : ∃ (r : Nibble) (f : Flags), evalAdd a b = { r := r, flags := some f }
    ∧ (toUnsigned r : Int) = (toUnsigned a : Int) + toUnsigned b - 16 * f.c.toNat
    ∧ (toUnsigned r : Int) = (toSigned a + toSigned b) % 16
    ∧ (f.v = true ↔ toSigned a + toSigned b < -8 ∨ 7 < toSigned a + toSigned b) :=
  ⟨_, _, rfl, evalAdd_unsigned_exact a b, evalAdd_signed_emod a b,
    (addOverflow_evalAdd_iff a b).trans (toSigned_ne_iff_of_emod (evalAdd_signed_emod a b))⟩

/-- A Carry taken as an operand is 0 or 1 in both views. -/
theorem views_ofNat_toNat (c : Bool) :
    toUnsigned (BitVec.ofNat 4 c.toNat) = c.toNat ∧ toSigned (BitVec.ofNat 4 c.toNat) = c.toNat := by
  cases c <;> decide

/-- The or of two bits that are not both set is their sum. -/
theorem toNat_or_of_add_le_one {x y : Bool} (h : x.toNat + y.toNat ≤ 1) : (x || y).toNat = x.toNat + y.toNat := by
  revert h
  cases x <;> cases y <;> decide

/-- Settles O23: each of the three sums is exact up to its Carry, at most one of the high ones carries out, and the two
Overflows of the high nibble cancel where the second addition undoes the first one's wrap-around. -/
theorem eightBitAdditionFromThreeRequests : Obligations.EightBitAdditionFromThreeRequests := by
  intro xh xl yh yl s
  obtain ⟨lo, fl, hlo, hulo, -, -⟩ := evalAdd_spec xl yl
  obtain ⟨h0, f0, hh0, hu0, hs0, hv0⟩ := evalAdd_spec xh yh
  obtain ⟨hi, fh, hhi, huhi, -, hvh⟩ := evalAdd_spec h0 (BitVec.ofNat 4 fl.c.toNat)
  obtain ⟨huc, hsc⟩ := views_ofNat_toNat fl.c
  rw [huc] at huhi
  rw [hsc] at hvh
  have hcl := Bool.toNat_le fl.c
  have hlolt := toUnsigned_lt lo
  refine ⟨lo, h0, hi, fl, f0, fh, answers_iff.2 hlo.symm, answers_iff.2 hh0.symm, answers_iff.2 hhi.symm, ?_, ?_⟩
  · have hxh := toUnsigned_lt xh
    have hyh := toUnsigned_lt yh
    have hone : f0.c.toNat + fh.c.toNat ≤ 1 := by omega
    rw [toNat_or_of_add_le_one hone]
    simp only [toNat_byte]
    omega
  · have hxh := toSigned_bounds xh
    have hyh := toSigned_bounds yh
    have hsh0 := toSigned_cases h0
    rw [bne_iff_ne, ne_eq, Bool.eq_iff_iff]
    refine (not_congr (iff_congr hv0 hvh)).trans ?_
    simp only [toInt_byte]
    omega

end Sys2Proof.Machine

/-! The table's indices (spec/44_truth_table.md R78, R79; spec/20_memory.md R24): an index of three digits, the row at
it, the ROM's word, and the obligations about rows and packed words. -/

namespace Sys2Proof.Machine

/-- A nibble is the nibble of its number. -/
theorem ofNat_toUnsigned (v : Nibble) : BitVec.ofNat 4 (toUnsigned v) = v := by
  rw [toUnsigned, BitVec.ofNat_toNat, BitVec.setWidth_eq]

/-- The opcode list of a configuration is the numbers below its length (R79). -/
theorem mem_opcodeList_iff {cfg : Cfg} {op : Nibble} : op ∈ opcodeList cfg ↔ toUnsigned op < opcodeCount cfg := by
  revert op
  cases cfg <;> decide

/-- The number of the row with the digits `a`, `b`, `k` (R79). -/
def indexOf (cfg : Cfg) (a b : Nibble) (k : Nat) : Nat := (16 * toUnsigned a + toUnsigned b) * opcodeCount cfg + k

/-- `row_index` is that number for an opcode of the list. -/
theorem rowIndex_eq_some_iff {cfg : Cfg} {a b op : Nibble} {i : Nat} : rowIndex cfg a b op = some i ↔
    toUnsigned op < opcodeCount cfg ∧ indexOf cfg a b (toUnsigned op) = i := by
  simp [rowIndex, indexOf, mem_opcodeList_iff]

theorem rowIndex_eq_none_iff {cfg : Cfg} {a b op : Nibble} : rowIndex cfg a b op = none ↔ op ∉ opcodeList cfg := by
  simp [rowIndex]

theorem indexOf_lt {cfg : Cfg} {k : Nat} (a b : Nibble) (h : k < opcodeCount cfg) :
    indexOf cfg a b k < rowCount cfg := by
  have ha := toUnsigned_lt a
  have hb := toUnsigned_lt b
  have hle : (16 * toUnsigned a + toUnsigned b + 1) * opcodeCount cfg ≤ 256 * opcodeCount cfg :=
    Nat.mul_le_mul_right _ (by omega)
  rw [Nat.succ_mul] at hle
  rw [indexOf, rowCount]
  omega

/-- `row_inputs` reads the three digits back (R79). -/
theorem rowInputs_indexOf {cfg : Cfg} {k : Nat} (a b : Nibble) (h : k < opcodeCount cfg) :
    rowInputs cfg (indexOf cfg a b k) = (a, b, BitVec.ofNat 4 k) := by
  have hn := opcodeCount_pos cfg
  have hb := toUnsigned_lt b
  have hdiv : indexOf cfg a b k / opcodeCount cfg = 16 * toUnsigned a + toUnsigned b := by
    rw [indexOf, Nat.mul_comm, Nat.mul_add_div hn, Nat.div_eq_of_lt h, Nat.add_zero]
  have hmod : indexOf cfg a b k % opcodeCount cfg = k := by
    rw [indexOf, Nat.mul_comm, Nat.mul_add_mod, Nat.mod_eq_of_lt h]
  have hda : indexOf cfg a b k / (16 * opcodeCount cfg) = toUnsigned a := by
    rw [Nat.mul_comm, ← Nat.div_div_eq_div_mul, hdiv]
    omega
  have hdb : (16 * toUnsigned a + toUnsigned b) % 16 = toUnsigned b := by omega
  rw [rowInputs, hda, hdiv, hdb, hmod, ofNat_toUnsigned, ofNat_toUnsigned]

/-- The row at the number of three digits is the row of those digits (R79, R80). -/
theorem tableRows_getElem?_indexOf {cfg : Cfg} {k : Nat} (a b : Nibble) (h : k < opcodeCount cfg) :
    (tableRows cfg)[indexOf cfg a b k]? = some (tableRow cfg a b (BitVec.ofNat 4 k)) := by
  rw [tableRows_getElem? (indexOf_lt a b h), rowInputs_indexOf a b h]

/-- The row of a request stands at the request's number. -/
theorem tableRows_getElem?_request {cfg : Cfg} {op : Nibble} (a b : Nibble) (h : op ∈ opcodeList cfg) :
    (tableRows cfg)[indexOf cfg a b (toUnsigned op)]? = some (tableRow cfg a b op) := by
  rw [tableRows_getElem?_indexOf a b (mem_opcodeList_iff.1 h), ofNat_toUnsigned]

/-- Every index below `N` is the number of its digits (R79). -/
theorem indexOf_rowInputs {cfg : Cfg} {i : Nat} (h : i < rowCount cfg) :
    indexOf cfg (rowInputs cfg i).1 (rowInputs cfg i).2.1 (toUnsigned (rowInputs cfg i).2.2) = i := by
  obtain ⟨ha, hb, hop⟩ := rowInputs_toNat h
  rw [indexOf, toUnsigned, toUnsigned, toUnsigned, ha, hb, hop, Nat.div_add_mod, Nat.mul_comm, Nat.div_add_mod]

/-- Settles O39: a request's index has the request's digits, and an index below `N` is that of its digits. -/
theorem rowIndexNumbersTheTable : Obligations.RowIndexNumbersTheTable := by
  refine ⟨fun cfg a b op i h => ?_, fun cfg i hi => ?_, fun _ _ _ _ => rowIndex_eq_none_iff⟩
  · obtain ⟨hop, rfl⟩ := rowIndex_eq_some_iff.1 h
    have hinputs := rowInputs_indexOf a b hop
    rw [ofNat_toUnsigned] at hinputs
    exact ⟨indexOf_lt a b hop, hinputs, tableRows_getElem?_request a b (mem_opcodeList_iff.2 hop)⟩
  · exact ⟨_, _, _, rowIndex_eq_some_iff.2
      ⟨mem_opcodeList_iff.1 (rowInputs_opcode_mem cfg i), indexOf_rowInputs hi⟩⟩

/-- A loop whose body emits something for one item alone emits what it emits for that item. -/
theorem flatMap_eq_of_unique {α β : Type} {l : List α} {f : α → List β} {a : α} (hnodup : l.Nodup) (ha : a ∈ l)
    (hf : ∀ x ∈ l, x ≠ a → f x = []) : l.flatMap f = f a := by
  induction l with
  | nil => exact absurd ha (List.not_mem_nil)
  | cons x xs ih =>
    obtain ⟨hx, hxs⟩ := List.nodup_cons.1 hnodup
    rw [List.flatMap_cons]
    rcases List.mem_cons.1 ha with rfl | hmem
    · have hrest : xs.flatMap f = [] := List.flatMap_eq_nil_iff.2 fun y hy =>
        hf y (List.mem_cons_of_mem _ hy) (fun h => hx (h ▸ hy))
      rw [hrest, List.append_nil]
    · rw [hf x (List.mem_cons_self) (fun h => hx (h ▸ hmem)), List.nil_append]
      exact ih hxs hmem fun y hy => hf y (List.mem_cons_of_mem _ hy)

theorem nibblesAscending_nodup : nibblesAscending.Nodup := by decide

theorem mem_nibblesAscending (v : Nibble) : v ∈ nibblesAscending := by
  revert v
  decide

theorem opcodeList_nodup (cfg : Cfg) : (opcodeList cfg).Nodup := by cases cfg <;> decide

/-- The innermost loop of a pair of operands has one row of an opcode in the list and none of another. -/
theorem filter_rowsOfOperands (cfg : Cfg) (a b op : Nibble) :
    ((opcodeList cfg).map fun o => tableRow cfg a b o).filter (fun x => x.a == a && x.b == b && x.op == op)
      = if op ∈ opcodeList cfg then [tableRow cfg a b op] else [] := by
  have hpred : (fun x : Row => x.a == a && x.b == b && x.op == op) ∘ (fun o => tableRow cfg a b o) = (· == op) := by
    funext o
    simp [tableRow]
  rw [List.filter_map, hpred, List.filter_beq]
  split
  next h => rw [List.count_eq_one_of_mem (opcodeList_nodup cfg) h, List.replicate_one, List.map_singleton]
  next h => rw [List.count_eq_zero_of_not_mem h, List.replicate_zero, List.map_nil]

/-- Settles O38: of the three loops each passes a given digit once, so the rows of a request are one row if the inner
loop has its opcode. -/
theorem tableHasEachRequestOnce : Obligations.TableHasEachRequestOnce := by
  refine ⟨fun cfg => ?_, length_tableRows _, length_tableRows _, length_tableRows _, fun cfg a b op => ?_⟩
  · rw [length_tableRows, rowCount, opcodeCount]
  · rw [tableRows, List.filter_flatMap, flatMap_eq_of_unique nibblesAscending_nodup (mem_nibblesAscending a),
      List.filter_flatMap, flatMap_eq_of_unique nibblesAscending_nodup (mem_nibblesAscending b),
      filter_rowsOfOperands]
    · intro y _ hy
      simp [List.filter_eq_nil_iff, tableRow, hy]
    · intro y _ hy
      simp only [List.filter_eq_nil_iff, List.mem_flatMap, List.mem_map]
      rintro _ ⟨z, _, o, _, rfl⟩
      simp [tableRow, hy]

/-- A row's word has the result in bits 6:3 and the flags in bits 2, 1, 0 (R24): checked for the 128 outputs. -/
theorem fields_of_flagWord (r : Nibble) (z c v : Bool) :
    (r ++ BitVec.ofBool z ++ BitVec.ofBool c ++ BitVec.ofBool v).extractLsb' 3 4 = r
      ∧ (r ++ BitVec.ofBool z ++ BitVec.ofBool c ++ BitVec.ofBool v).getLsbD 2 = z
      ∧ (r ++ BitVec.ofBool z ++ BitVec.ofBool c ++ BitVec.ofBool v).getLsbD 1 = c
      ∧ (r ++ BitVec.ofBool z ++ BitVec.ofBool c ++ BitVec.ofBool v).getLsbD 0 = v := by
  revert r z c v
  decide +kernel

/-- The ROM's word at the index of a row packs that row (R23). -/
theorem memRead_of_row {s : State} {i : Nat} {x : Row} (h : (tableRows s.cfg)[i]? = some x) :
    s.memRead (i : Int) = some (packRow x) := by
  obtain ⟨hi, rfl⟩ := tableRows_getElem?_eq_some_iff.1 h
  exact memRead_of_lt (by omega) (by omega)

theorem packRow_of_some {x : Row} {f : Flags} (h : x.flags = some f) :
    packRow x = .withFlags (x.r ++ BitVec.ofBool f.z ++ BitVec.ofBool f.c ++ BitVec.ofBool f.v) := by
  rw [packRow, h]

theorem packRow_of_none {x : Row} (h : x.flags = none) : packRow x = .plain x.r := by
  rw [packRow, h]

/-- Settles O42: the word of an index packs its row, and outside the indices there is none. -/
theorem romHoldsTheTable : Obligations.RomHoldsTheTable := by
  refine ⟨fun s i x hx => ⟨fun f hf => ?_, fun hf => ?_⟩, fun s addr haddr => ?_⟩
  · rw [memRead_of_row hx, packRow_of_some hf]
    exact ⟨_, rfl, fields_of_flagWord x.r f.z f.c f.v⟩
  · rw [memRead_of_row hx, packRow_of_none hf]
  · rw [length_tableRows] at haddr
    exact haddr.elim memRead_of_neg memRead_of_ge

/-- Every opcode has its row in FULL16, of the evaluation's result and no flags (R80, R84). -/
theorem exists_full16_row (a b op : Nibble) : ∃ i : Nat,
    (tableRows .full16)[i]? = some { a := a, b := b, op := op, r := (evaluate a b op).r, flags := none } :=
  ⟨_, tableRows_getElem?_request a b (mem_opcodeList_iff.2 (toUnsigned_lt op))⟩

/-- Settles O41: the result of a row is `evaluate`'s under every configuration. -/
theorem full16AgreesWithArith4OnResults : Obligations.Full16AgreesWithArith4OnResults := by
  intro i x hx
  obtain ⟨-, rfl⟩ := tableRows_getElem?_eq_some_iff.1 hx
  exact exists_full16_row _ _ _

/-- Two rows with different opcodes stand at different indices. -/
theorem index_ne_of_op_ne {cfg : Cfg} {i j : Nat} {x y : Row} (hx : (tableRows cfg)[i]? = some x)
    (hy : (tableRows cfg)[j]? = some y) (h : x.op ≠ y.op) : i ≠ j := by
  rintro rfl
  exact h (congrArg Row.op (Option.some.inj (hx.symm.trans hy)))

/-- Settles O13: SLA and SLL evaluate to the same shifted nibble, while the opcode field keeps their words and their
rows apart. -/
theorem slaIsSllUnderSecondOpcode : Obligations.SlaIsSllUnderSecondOpcode := by
  intro a b s
  obtain ⟨h3, h2, h1, h0⟩ := getLsbD_nibbleOfBits (a.getLsbD 2) (a.getLsbD 1) (a.getLsbD 0) false
  obtain ⟨i, hi⟩ := exists_full16_row a b 10#4
  obtain ⟨j, hj⟩ := exists_full16_row a b 12#4
  have hwords : encode (.sla a b) ≠ encode (.sll a b) := fun h => by
    have hinstr := congrArg decodeW12 h
    rw [decodeW12_encode, decodeW12_encode] at hinstr
    cases hinstr
  exact ⟨shiftLeftOne a, answers_evalOp (.sla a b) s, answers_evalOp (.sll a b) s, h3, h2, h1, h0, hwords, i, j,
    index_ne_of_op_ne hi hj (show (10#4 : Nibble) ≠ 12#4 by decide), hi, hj⟩

/-- The operations of the opcodes 8 to 15 do not read their second operand (R18). -/
theorem evalOp_ignores_b {o : Op} (h : 8 ≤ (nibbleOfOp o).toNat) (a b1 b2 : Nibble) : evalOp o a b1 = evalOp o a b2 := by
  cases o with
  | pass | not | sll | srl | sla | sra | rol | ror => rfl
  | _ => exact absurd h (by decide)

/-- A request whose first field alone is known to be a nibble is refused by the name of a second field out of domain
(R93, R98). -/
theorem decodeRequest_error_b {q : Request} (ha : 0 ≤ q.a ∧ q.a ≤ 15) (hb : ¬ (0 ≤ q.b ∧ q.b ≤ 15)) :
    decodeRequest q = .error .B := by
  rw [decodeRequest_eq_error_iff]
  simp [Request.violation, inDomain, ha, hb]

/-- Settles O22: the evaluation drops `B`, the domain check and the table do not. -/
theorem oneOperandOperationsIgnoreB : Obligations.OneOperandOperationsIgnoreB := by
  intro o a b1 b2 s ho
  have ha := a.isLt
  refine ⟨exec_congr ?_ s, fun n hn => decodeRequest_error_b ?_ ?_, ?_⟩
  · simpa using evalOp_ignores_b ho a b1 b2
  · show 0 ≤ (a.toNat : Int) ∧ (a.toNat : Int) ≤ 15
    omega
  · show ¬ (0 ≤ n ∧ n ≤ 15)
    omega
  · exact ⟨_, tableRows_getElem?_request a b1 (mem_opcodeList_iff.2 (toUnsigned_lt _))⟩

theorem evaluate_nibbleOfOp (o : Op) (a b : Nibble) : evaluate a b (nibbleOfOp o) = evalOp o a b := by
  rw [evaluate, opOfNibble_nibbleOfOp]

/-- The flags of a row: those of the evaluation where the schema has the columns (R84, D3). -/
theorem tableRow_flags (cfg : Cfg) (o : Op) (a b : Nibble) :
    (tableRow cfg a b (nibbleOfOp o)).flags = if cfg = .full16 then none else (evalOp o a b).flags := by
  rw [← evaluate_nibbleOfOp]
  cases cfg <;> rfl

/-- Settles O18: the opcode decides whether the evaluation has flags; a schema with flag columns shows them as they
are. -/
theorem flagsExistExactlyForArithmeticOpcodes : Obligations.FlagsExistExactlyForArithmeticOpcodes := by
  intro i s
  refine ⟨_, _, answers_evalOp i s, fun hle => ?_, fun hge => evalOp_flags_eq_none hge _ _,
    fun cfg => tableRow_flags cfg _ _ _⟩
  obtain ⟨f, hf, -⟩ := evalOp_arithmetic_flags (arithmetic_of_nibbleOfOp_le hle) i.opA i.opB
  exact ⟨f, hf⟩

/-- The packed word's number laid out in fields again is the instruction's request (R34). -/
theorem requestOfNumber_encode (i : Instr) : requestOfNumber (encode i).toNat = requestOfInstr i := by
  have hb := i.opB.isLt
  have hop := (nibbleOfOp i.operation).isLt
  rw [toNat_encode, requestOfNumber, requestOfInstr, Request.mk.injEq]
  omega

/-- A table word of at least twelve bits holds the packed word whole. -/
theorem toNat_encode_mod {n : Nat} (h : 12 ≤ n) (i : Instr) : (encode i).toNat % 2 ^ n = (encode i).toNat :=
  Nat.mod_eq_of_lt ((encode i).isLt.trans_le (Nat.pow_le_pow_right (by decide) h))

theorem decodeTableWord_encode {n : Nat} (h : 12 ≤ n) (i : Instr) : decodeTableWord n (encode i).toNat = some i := by
  rw [decodeTableWord, toNat_encode_mod h, decodeNumber, requestOfNumber_encode, decodeRequest_requestOfInstr]

/-- The packed word placed as the next one is the instruction's request at the head of the inbox. -/
theorem withFetchWord_encode_inbox {n : Nat} (h : 12 ≤ n) (i : Instr) (s : State) :
    (s.withFetchWord n (encode i).toNat).inbox = .request (requestOfInstr i) :: s.inbox := by
  rw [State.withFetchWord, State.presentWord, toNat_encode_mod h, requestOfNumber_encode]

/-- Settles O34: the packed word, the row index and the request number are one mixed-radix number. -/
theorem packedWordNumbersItsRequest : Obligations.PackedWordNumbersItsRequest := by
  intro i
  have hnumber := toNat_encode i
  refine ⟨hnumber, rowIndex_eq_some_iff.2 ⟨toUnsigned_lt _, ?_⟩, decodeTableWord_encode (by decide) i,
    decodeTableWord_encode (by decide) i, fun s => ?_⟩
  · rw [hnumber, indexOf, show opcodeCount .full16 = 16 from rfl, toUnsigned, toUnsigned, toUnsigned]
    omega
  · exact stepRunsDecodedInstruction _ _ _ i (withFetchWord_encode_inbox (by decide) i s)
      (decodeRequest_requestOfInstr i)

end Sys2Proof.Machine

/-! The text forms (spec/44_truth_table.md R81 to R83, D11; spec/30_encoding.md R43, D7): a data line's shape, length
and alphabet, the stream's, and a written request read back. -/

namespace Sys2Proof.Machine

theorem dataLine_of_some {x : Row} {f : Flags} (h : x.flags = some f) :
    dataLine x = bin4 x.a ++ ['\t'] ++ bin4 x.b ++ ['\t'] ++ bin4 x.op ++ ['\t'] ++ bin4 x.r
        ++ ['\t', bitChar f.z, '\t', bitChar f.c, '\t', bitChar f.v, '\n'] := by
  rw [dataLine, rowFields, h]
  rfl

theorem dataLine_of_none {x : Row} (h : x.flags = none) :
    dataLine x = bin4 x.a ++ ['\t'] ++ bin4 x.b ++ ['\t'] ++ bin4 x.op ++ ['\t'] ++ bin4 x.r ++ ['\n'] := by
  rw [dataLine, rowFields, h]
  rfl

/-- Settles O44: the headers are the literal strings, and joining a row's fields puts one TAB between them. -/
theorem textLinesHaveTheDocumentsForm : Obligations.TextLinesHaveTheDocumentsForm :=
  ⟨by decide, by decide, by decide, fun _ _ => dataLine_of_some, fun _ => dataLine_of_none⟩

theorem bitChar_cases (b : Bool) : bitChar b = '0' ∨ bitChar b = '1' := by
  cases b <;> decide

theorem bin4_alphabet {v : Nibble} {c : Char} (h : c ∈ bin4 v) : c = '0' ∨ c = '1' := by
  simp only [bin4, List.mem_cons, List.not_mem_nil, or_false] at h
  obtain rfl | rfl | rfl | rfl := h <;> exact bitChar_cases _

/-- The fields of a row hold digits only. -/
theorem rowFields_alphabet {x : Row} {f : List Char} {c : Char} (hf : f ∈ rowFields x) (hc : c ∈ f) :
    c = '0' ∨ c = '1' := by
  cases hx : x.flags with
  | none =>
    simp only [rowFields, hx, List.append_nil, List.mem_cons, List.not_mem_nil, or_false] at hf
    obtain rfl | rfl | rfl | rfl := hf <;> exact bin4_alphabet hc
  | some g =>
    simp only [rowFields, hx, List.mem_append, List.mem_cons, List.not_mem_nil, or_false] at hf
    obtain hoperand | hflag := hf
    · obtain rfl | rfl | rfl | rfl := hoperand <;> exact bin4_alphabet hc
    · obtain rfl | rfl | rfl := hflag <;> exact List.mem_singleton.1 hc ▸ bitChar_cases _

/-- A character of a joined list of fields is a TAB or stands in a field. -/
theorem mem_tabJoin {fs : List (List Char)} {c : Char} (h : c ∈ tabJoin fs) : c = '\t' ∨ ∃ f ∈ fs, c ∈ f := by
  induction fs using tabJoin.induct with
  | case1 => exact absurd h List.not_mem_nil
  | case2 f => exact .inr ⟨f, List.mem_singleton_self f, h⟩
  | case3 f g fs ih =>
    rw [tabJoin, List.mem_append, List.mem_cons] at h
    obtain hf | rfl | hrest := h
    · exact .inr ⟨f, List.mem_cons_self, hf⟩
    · exact .inl rfl
    · obtain htab | ⟨f', hf', hc⟩ := ih hrest
      · exact .inl htab
      · exact .inr ⟨f', List.mem_cons_of_mem f hf', hc⟩

/-- A row's fields joined: digits and TABs, so no LINE FEED before the one that ends the line. -/
theorem tabJoin_rowFields_alphabet {x : Row} {c : Char} (h : c ∈ tabJoin (rowFields x)) :
    c = '0' ∨ c = '1' ∨ c = '\t' := by
  obtain rfl | ⟨f, hf, hc⟩ := mem_tabJoin h
  · exact .inr (.inr rfl)
  · exact (rowFields_alphabet hf hc).imp_right .inl

theorem dataLine_alphabet {x : Row} {c : Char} (h : c ∈ dataLine x) : c = '0' ∨ c = '1' ∨ c = '\t' ∨ c = '\n' := by
  rw [dataLine, textLine, List.mem_append, List.mem_singleton] at h
  obtain h | rfl := h
  · obtain rfl | rfl | rfl := tabJoin_rowFields_alphabet h <;> simp
  · simp

/-- The lines of any rows hold digits, TABs and LINE FEEDs (R83). -/
theorem dataLines_alphabet {rows : List Row} {c : Char} (h : c ∈ rows.flatMap dataLine) :
    c = '0' ∨ c = '1' ∨ c = '\t' ∨ c = '\n' := by
  obtain ⟨x, -, hc⟩ := List.mem_flatMap.1 h
  exact dataLine_alphabet hc

/-- A data line has one LINE FEED, its last character (R83). -/
theorem count_newline_dataLine (x : Row) : (dataLine x).count '\n' = 1 := by
  have hnone : '\n' ∉ tabJoin (rowFields x) := fun h => absurd (tabJoin_rowFields_alphabet h) (by decide)
  rw [dataLine, textLine, List.count_append, List.count_eq_zero_of_not_mem hnone]
  rfl

theorem count_newline_dataLines (rows : List Row) : (rows.flatMap dataLine).count '\n' = rows.length := by
  induction rows with
  | nil => rfl
  | cons x xs ih => rw [List.flatMap_cons, List.count_append, count_newline_dataLine, ih, List.length_cons, Nat.add_comm]

/-- Whatever rows a consumer took, what it writes ends with a LINE FEED: a line's end is the last thing in it. -/
theorem getLast?_streamOf (cfg : Cfg) (rows : List Row) : (streamOf cfg rows).getLast? = some '\n' := by
  rcases List.eq_nil_or_concat rows with rfl | ⟨xs, x, rfl⟩
  · rw [streamOf, List.flatMap_nil, List.append_nil, headerLine, textLine, List.getLast?_concat]
  · rw [streamOf, List.concat_eq_append, List.flatMap_append, List.flatMap_singleton, dataLine, textLine,
      ← List.append_assoc, ← List.append_assoc, List.getLast?_concat]

/-- The length of a data line: 20 characters, and a TAB and a digit more for each flag column (R82, R83). -/
def dataLineLength (cfg : Cfg) : Nat := if hasFlagColumns cfg then 26 else 20

/-- Every line of a configuration's table has that length: its schema decides the columns. -/
theorem length_dataLine {cfg : Cfg} {x : Row} (h : x ∈ tableRows cfg) : (dataLine x).length = dataLineLength cfg := by
  obtain ⟨i, hi⟩ := List.getElem?_of_mem h
  obtain ⟨-, rfl⟩ := tableRows_getElem?_eq_some_iff.1 hi
  by_cases hcfg : cfg = .full16
  · subst hcfg
    rw [dataLine_of_none rfl]
    rfl
  · obtain ⟨-, hflags⟩ := tableRow_flags_of_ne_full16 hcfg (rowInputs cfg i).1 (rowInputs cfg i).2.1
      (rowInputs_opcode_mem cfg i)
    obtain ⟨f, hf⟩ := Option.ne_none_iff_exists'.1 hflags
    rw [dataLine_of_some hf, dataLineLength, (arithmetic_of_mem_opcodeList hcfg).1]
    rfl

/-- The length of the stream: the header, then `N` lines of one length. -/
theorem length_textStream (cfg : Cfg) :
    (textStream cfg).length = (headerLine cfg).length + rowCount cfg * dataLineLength cfg := by
  rw [textStream, streamOf, List.length_append, List.length_flatMap,
    List.map_congr_left fun x hx => length_dataLine hx, List.map_const', List.sum_replicate, length_tableRows,
    smul_eq_mul]

/-- The header's characters are ASCII, none of them a space or a carriage return (R81). -/
theorem headerLine_alphabet {cfg : Cfg} {c : Char} (h : c ∈ headerLine cfg) : c ≠ '\r' ∧ c ≠ ' ' ∧ c.toNat < 128 := by
  have hall : (headerLine cfg).all (fun c => c != '\r' && c != ' ' && decide (c.toNat < 128)) = true := by
    cases cfg <;> rfl
  simpa [and_assoc] using List.all_eq_true.1 hall c h

theorem count_newline_headerLine (cfg : Cfg) : (headerLine cfg).count '\n' = 1 := by
  cases cfg <;> decide

/-- The stream's characters are ASCII, none of them a space or a carriage return (R83). -/
theorem textStream_alphabet {cfg : Cfg} {c : Char} (h : c ∈ textStream cfg) : c ≠ '\r' ∧ c ≠ ' ' ∧ c.toNat < 128 := by
  rw [textStream, streamOf, List.mem_append] at h
  obtain h | h := h
  · exact headerLine_alphabet h
  · obtain rfl | rfl | rfl | rfl := dataLines_alphabet h <;> decide

/-- Settles O46: the lines of a table have one length, hold digits and TABs, and end each with its only LINE FEED. -/
theorem textStreamHasFixedLengthAndAlphabet : Obligations.TextStreamHasFixedLengthAndAlphabet := by
  refine ⟨length_textStream .arith3, length_textStream .arith4, length_textStream .full16, fun cfg =>
    ⟨rfl, ?_, getLast?_streamOf cfg _, fun h => (textStream_alphabet h).1 rfl, fun h => (textStream_alphabet h).2.1 rfl,
      fun c => dataLines_alphabet, List.length_map _, fun y hy => ?_⟩⟩
  · rw [textStream, streamOf, List.count_append, count_newline_headerLine, count_newline_dataLines, length_tableRows,
      Nat.add_comm]
  · obtain ⟨c, hc, rfl⟩ := List.mem_map.1 hy
    obtain ⟨-, -, hascii⟩ := textStream_alphabet hc
    rw [BitVec.toNat_ofNat]
    omega

/-- Cutting at a separator that the first part does not hold gives the two parts. -/
theorem cutAt_append {sep : Char} {l : List Char} (h : sep ∉ l) (r : List Char) :
    cutAt sep (l ++ sep :: r) = (l, some r) := by
  induction l with
  | nil => simp [cutAt]
  | cons c cs ih =>
    obtain ⟨hc, hcs⟩ := not_or.1 (mt List.mem_cons.2 h)
    simp [cutAt, Ne.symm hc, ih hcs]

theorem not_mem_mnemonic (o : Op) : ' ' ∉ mnemonic o := by
  cases o <;> decide

/-- No two operations share a mnemonic: the search by mnemonic finds the operation (D7). -/
theorem find?_mnemonic (o : Op) : operations.find? (fun p => mnemonic p == mnemonic o) = some o := by
  cases o <;> rfl

theorem not_mem_bin4 (v : Nibble) : ',' ∉ bin4 v := fun h => absurd (bin4_alphabet h) (by decide)

/-- Four binary digits are read as the nibble they show (R43, R50): checked for the sixteen nibbles. -/
theorem readOperand_bin4 (v : Nibble) : readOperand (bin4 v) = some v.toNat := by
  revert v
  decide

/-- Settles O47: the text is cut where it was joined, and each part is read back. -/
theorem requestTextReadsBack : Obligations.RequestTextReadsBack := by
  intro i
  have hcut : cutAt ' ' (requestText i) = (mnemonic i.operation, some (bin4 i.opA ++ ',' :: ' ' :: bin4 i.opB)) := by
    rw [requestText, List.append_assoc, List.cons_append, cutAt_append (not_mem_mnemonic _)]
  simp only [readRequest, hcut, find?_mnemonic, cutAt_append (not_mem_bin4 i.opA), readOperand_bin4, dropSpace]
  rfl

end Sys2Proof.Machine

/-! The generator and the block's invariant (spec/44_truth_table.md R88, spec/60_exceptions.md R95 to R105,
spec/70_reset_and_hazards.md R106, R107): where a legal cursor stands in the table, what each event keeps, and whole
runs of STEPs. -/

namespace Sys2Proof.Machine

/-! ## The cursor in the table. -/

theorem Cursor.first_legal (cfg : Cfg) : Cursor.first.Legal cfg :=
  ⟨opcodeCount_pos cfg, fun h => absurd h Bool.false_ne_true⟩

theorem Cursor.first_position (cfg : Cfg) : Cursor.first.position cfg = 0 := by
  cases cfg <;> rfl

theorem Cursor.first_row (cfg : Cfg) :
    Cursor.first.row cfg = some (tableRow cfg 0b0000#4 0b0000#4 0b0000#4) := by
  cases cfg <;> rfl

theorem Cursor.position_of_done {cfg : Cfg} {c : Cursor} (h : c.done = true) : c.position cfg = rowCount cfg :=
  if_pos h

/-- While `done = 0` a legal cursor stands at the index of its own digits (R79). -/
theorem Cursor.position_of_not_done {cfg : Cfg} {c : Cursor} (h : c.done = false) :
    c.position cfg = indexOf cfg c.a c.b c.k :=
  if_neg (Bool.eq_false_iff.1 h)

/-- A legal cursor has passed every row exactly when `done = 1`. -/
theorem Cursor.Legal.done_iff {cfg : Cfg} {c : Cursor} (h : c.Legal cfg) :
    c.done = true ↔ rowCount cfg ≤ c.position cfg := by
  refine ⟨fun hd => (Cursor.position_of_done hd).ge, fun hpos => ?_⟩
  by_contra hd
  rw [Cursor.position_of_not_done (Bool.eq_false_iff.2 hd)] at hpos
  exact absurd (indexOf_lt c.a c.b h.1) (Nat.not_lt_of_le hpos)

/-- A legal cursor presents the row of the table at its position, and no row past the last (R88). -/
theorem Cursor.Legal.row_eq_getElem? {cfg : Cfg} {c : Cursor} (h : c.Legal cfg) :
    c.row cfg = (tableRows cfg)[c.position cfg]? := by
  cases hd : c.done with
  | true =>
    rw [Cursor.row, if_pos hd, Cursor.position_of_done hd, List.getElem?_eq_none (length_tableRows cfg).le]
  | false =>
    rw [Cursor.row, if_neg (Bool.eq_false_iff.1 hd), Cursor.position_of_not_done hd,
      tableRows_getElem?_indexOf c.a c.b h.1, opcodeList_getElem? cfg c.k h.1, Option.map_some]

/-! ## What each event does to the generator. -/

theorem State.stepGenerator_of_running {s : State} (h : s.phase = .running) : s.stepGenerator = s.stepRunning := by
  rw [State.stepGenerator, h]

theorem State.stepGenerator_of_aborted {s : State} (h : s.phase = .aborted) : s.stepGenerator = s := by
  rw [State.stepGenerator, h]

theorem State.failSink_of_running {s : State} (h : s.phase = .running) (hd : s.cur.done = false) :
    s.failSink = { s with phase := .aborted, sink := Config.freeSink s.freeIdx } := by
  rw [State.failSink, h]
  exact if_neg (Bool.eq_false_iff.1 hd)

theorem State.presentedRow_of_running {s : State} (h : s.phase = .running) : s.presentedRow = s.cur.row s.cfg := by
  rw [State.presentedRow, h]

theorem State.presentedRow_of_aborted {s : State} (h : s.phase = .aborted) : s.presentedRow = none := by
  rw [State.presentedRow, h]

/-- From the first RST on, `DONE` depends on the phase and the cursor alone. -/
theorem State.doneOut_congr {s t : State} (hp : t.phase = s.phase) (hu : t.cur = s.cur) (h : s.phase ≠ .beforeRst) :
    t.doneOut = s.doneOut := by
  rw [State.doneOut_eq_done h, State.doneOut_eq_done (hp ▸ h), hu]

/-! ## The block's invariant. -/

theorem evaluatorInv_congr {s t : State} (hq : t.request = s.request) (ha : t.answer = s.answer)
    (h : EvaluatorInv s) : EvaluatorInv t := by
  rw [evaluatorInv_iff] at h ⊢
  rw [hq, ha, h]

theorem romInv_congr {s t : State} (hc : t.cfg = s.cfg) (ha : t.romAddr = s.romAddr) (hr : t.romReply = s.romReply)
    (h : RomInv s) : RomInv t := by
  unfold RomInv at h ⊢
  rw [hc, ha, hr, h]

theorem generatorInv_rst (s : State) : GeneratorInv s.rst := by
  refine fun _ => ⟨Cursor.first_legal _, ?_⟩
  rw [State.rst_cur, Cursor.first_position, List.take_zero, State.rst_sink]

/-- A STEP moves the presented row from the table to the sink: one row more, one position more (R88, R89). -/
theorem generatorInv_stepRunning {s : State} (hphase : s.phase = .running) (h : GeneratorInv s) :
    GeneratorInv s.stepRunning := by
  obtain ⟨hlegal, hsink⟩ := h hphase
  obtain ⟨-, he⟩ | ⟨hd, he⟩ := s.stepRunning_cases
  · rwa [he]
  · rw [he]
    intro _
    obtain ⟨hlegal', hpos⟩ := Cursor.advance_legal_position hlegal hd
    refine ⟨hlegal', ?_⟩
    show s.sink ++ (s.cur.row s.cfg).toList = (tableRows s.cfg).take ((s.cur.advance s.cfg).position s.cfg)
    rw [hpos, List.take_add_one, ← hsink, hlegal.row_eq_getElem?]

theorem generatorInv_stepGenerator {s : State} (h : GeneratorInv s) : GeneratorInv s.stepGenerator := by
  intro hphase
  obtain ⟨-, -, -, -, -, -, -, hkeep⟩ := s.stepGenerator_frame
  have hrunning : s.phase = .running := hkeep ▸ hphase
  rw [State.stepGenerator_of_running hrunning] at hphase ⊢
  exact generatorInv_stepRunning hrunning h hphase

/-- A sink failure changes nothing or ends the generation. -/
theorem generatorInv_failSink {s : State} (h : GeneratorInv s) : GeneratorInv s.failSink := by
  obtain he | he := s.failSink_cases
  · rwa [he]
  · rw [he]
    exact fun hphase => absurd (show Phase.aborted = .running from hphase) (by decide)

/-- Serving any input keeps the invariant. -/
theorem serve_keeps_inv {s t : State} {x : Input} (h : Inv s) (hserve : serve x s = .next t) : Inv t := by
  obtain ⟨hgen, heval, hrom⟩ := h
  cases x with
  | request q =>
    rw [serve_request] at hserve
    cases hserve
    exact ⟨hgen, rfl, hrom⟩
  | rst =>
    cases hserve
    exact ⟨generatorInv_rst s, heval, hrom⟩
  | step =>
    cases hserve
    obtain ⟨hcfg, -, hrequest, hanswer, haddr, hreply, -, -⟩ := s.stepGenerator_frame
    exact ⟨generatorInv_stepGenerator hgen, evaluatorInv_congr hrequest hanswer heval,
      romInv_congr hcfg haddr hreply hrom⟩
  | sinkFailure =>
    cases hserve
    obtain ⟨hcfg, -, -, hrequest, hanswer, haddr, hreply, -⟩ := s.failSink_frame
    exact ⟨generatorInv_failSink hgen, evaluatorInv_congr hrequest hanswer heval,
      romInv_congr hcfg haddr hreply hrom⟩
  | lookup addr =>
    cases hserve
    exact ⟨hgen, heval, rfl⟩

/-- What a step can do: nothing where nothing is presented, or serve the head of the inbox. -/
theorem step_cases {s t : State} (h : step s = .next t) :
    t = s ∨ ∃ x rest, s.inbox = x :: rest ∧ serve x (s.takeInput rest) = .next t := by
  cases hinbox : s.inbox with
  | nil =>
    rw [step_of_nil hinbox] at h
    cases h
    exact .inl rfl
  | cons x rest => exact .inr ⟨x, rest, rfl, (step_of_cons hinbox).symm.trans h⟩

/-- Settles O58: the invariant reads neither the inbox nor the index, so taking the input keeps it, and serving the
input keeps it. -/
theorem everyStepKeepsBlockInvariant : Obligations.EveryStepKeepsBlockInvariant := by
  intro s t hinv hstep
  obtain rfl | ⟨x, rest, -, hserve⟩ := step_cases hstep
  · exact hinv
  · have htaken : Inv (s.takeInput rest) := hinv
    exact serve_keeps_inv htaken hserve

/-- Settles O57: the reset state is a generation that has taken no row, and nothing stands at the other interfaces. -/
theorem resetMeetsBlockInvariant : Obligations.ResetMeetsBlockInvariant :=
  fun cfg => ⟨generatorInv_rst (State.resetWith cfg), rfl, rfl⟩

/-- Settles O59: at `DONE = 1` the cursor's position is the row count, so the rows before it are all of them. -/
theorem doneMeansWholeTable : Obligations.DoneMeansWholeTable := by
  rintro s ⟨hgen, -, -⟩ hphase hdone
  obtain ⟨-, hsink⟩ := hgen hphase
  rw [State.doneOut_eq_done (by rw [hphase]; decide)] at hdone
  rw [Cursor.position_of_done hdone, ← length_tableRows, List.take_length] at hsink
  refine ⟨⟨hphase, hdone, hsink⟩, decide_eq_true hsink, ?_, congrArg (streamOf s.cfg) hsink⟩
  rw [State.presentedRow_of_running hphase, Cursor.row, if_pos hdone]

/-! ## One step on each event. -/

/-- No input served changes the strap (R13). -/
theorem serve_cfg {s t : State} {x : Input} (h : serve x s = .next t) : t.cfg = s.cfg := by
  cases x with
  | request q =>
    rw [serve_request] at h
    cases h
    rfl
  | rst => cases h; rfl
  | step => cases h; exact s.stepGenerator_frame.1
  | sinkFailure => cases h; exact s.failSink_frame.1
  | lookup addr => cases h; rfl

/-- Settles O56: no input writes the strap, and the ROM depends on the strap alone. -/
theorem noStepChangesConfigurationOrRom : Obligations.NoStepChangesConfigurationOrRom := by
  intro s t hstep
  have hcfg : t.cfg = s.cfg := by
    obtain rfl | ⟨x, rest, -, hserve⟩ := step_cases hstep
    · rfl
    · exact (serve_cfg hserve).trans (s.takeInput_cfg rest)
  exact ⟨hcfg, State.memRead_congr hcfg⟩

/-- The ROM's reply is its word, or the refusal where it has none (R26). -/
theorem romReplyTo_of_memRead (cfg : Cfg) (addr : Int) :
    (∀ w, memRead cfg addr = some w → romReplyTo cfg addr = .data w)
      ∧ (memRead cfg addr = none → romReplyTo cfg addr = .refused) := by
  constructor
  · intro w h
    rw [romReplyTo, h]
  · intro h
    rw [romReplyTo, h]

/-- Settles O43: a lookup's state is the ROM's reply written beside its address. -/
theorem lookupReadsRomWithoutSideEffect : Obligations.LookupReadsRomWithoutSideEffect :=
  fun s addr _ h => ⟨romReplyTo s.cfg addr, step_of_cons h, romReplyTo_of_memRead s.cfg addr⟩

/-- Settles O49: RST writes the first cursor, whose row is the table's first. -/
theorem rstBeginsGenerationFromAnyState : Obligations.RstBeginsGenerationFromAnyState :=
  fun s _ h => ⟨_, step_of_cons h, rfl, rfl, rfl, rfl, rfl, rfl, rfl, Cursor.first_row s.cfg, rfl, rfl, rfl, rfl, rfl, rfl⟩

/-- Settles O50: the reset state holds the first cursor and empty interfaces. -/
theorem resetStandsAtFirstRow : Obligations.ResetStandsAtFirstRow :=
  ⟨rfl, fun cfg => ⟨rfl, Cursor.first_row cfg, rfl, rfl, rfl, rfl⟩⟩

theorem Cursor.advance_of_k_lt {cfg : Cfg} {c : Cursor} (hk : c.k < opcodeCount cfg - 1) :
    c.advance cfg = { c with k := c.k + 1 } :=
  if_pos hk

theorem Cursor.advance_of_b_lt {cfg : Cfg} {c : Cursor} (hk : ¬ c.k < opcodeCount cfg - 1) (hb : c.b.toNat < 15) :
    c.advance cfg = { c with k := 0, b := c.b + 1#4 } :=
  (if_neg hk).trans (if_pos hb)

theorem Cursor.advance_of_a_lt {cfg : Cfg} {c : Cursor} (hk : ¬ c.k < opcodeCount cfg - 1) (hb : c.b.toNat = 15)
    (ha : c.a.toNat < 15) : c.advance cfg = { c with k := 0, b := 0b0000#4, a := c.a + 1#4 } :=
  ((if_neg hk).trans (if_neg hb.not_lt)).trans (if_pos ha)

theorem Cursor.advance_of_last {cfg : Cfg} {c : Cursor} (hk : ¬ c.k < opcodeCount cfg - 1) (hb : c.b.toNat = 15)
    (ha : c.a.toNat = 15) : c.advance cfg = { a := 0b0000#4, b := 0b0000#4, k := 0, done := true } :=
  ((if_neg hk).trans (if_neg hb.not_lt)).trans (if_neg ha.not_lt)

/-- The next nibble is the nibble of the next number. -/
theorem add_one_eq_ofNat (v : Nibble) : v + 1#4 = BitVec.ofNat 4 (v.toNat + 1) := by
  rw [BitVec.ofNat_add, BitVec.ofNat_toNat, BitVec.setWidth_eq]

/-- Settles O51: a STEP passes the presented row to the sink and advances the cursor by the case it is in. -/
theorem stepEventAdvancesCursor : Obligations.StepEventAdvancesCursor := by
  intro s rest hphase hinbox
  obtain ⟨hcfg, hrest, hrequest, hanswer, haddr, hreply, -, hkeep⟩ := (s.takeInput rest).stepGenerator_frame
  refine ⟨_, step_of_cons hinbox, hrest, hcfg, hkeep.trans hphase, hrequest, hanswer, haddr, hreply, ?_⟩
  have hrunning : (s.takeInput rest).phase = .running := hphase
  rw [State.stepGenerator_of_running hrunning]
  obtain ⟨hd, he⟩ | ⟨hd, he⟩ := (s.takeInput rest).stepRunning_cases <;> rw [he]
  · exact ⟨fun _ => ⟨rfl, rfl⟩, fun h => absurd (hd.symm.trans h) (by decide)⟩
  · rw [State.takeInput_cur] at hd
    refine ⟨fun h => absurd (hd.symm.trans h) (by decide), fun _ => ⟨?_, fun hk => ?_, fun hk hb => ?_,
      fun hk hb ha => ?_, Cursor.advance_of_last⟩⟩
    · rw [State.presentedRow_of_running hphase]
      rfl
    · exact (Cursor.advance_of_k_lt hk).trans (by rw [hd])
    · exact (Cursor.advance_of_b_lt hk hb).trans (by rw [hd, add_one_eq_ofNat])
    · exact (Cursor.advance_of_a_lt hk hb ha).trans (by rw [hd, add_one_eq_ofNat])

/-- Settles O53: a request writes the evaluator's side and a lookup the ROM's; what the generator shows depends on
neither. -/
theorem requestsAndLookupsLeaveGeneratorAlone : Obligations.RequestsAndLookupsLeaveGeneratorAlone := by
  rintro s x rest hinbox (⟨q, rfl⟩ | ⟨addr, rfl⟩)
  · exact ⟨_, step_of_request hinbox, rfl, rfl, rfl, rfl, State.doneOut_congr rfl rfl⟩
  · exact ⟨_, step_of_cons hinbox, rfl, rfl, rfl, rfl, State.doneOut_congr rfl rfl⟩

/-- Settles O54: the frames of the generator's three events. -/
theorem generatorEventsLeaveEvaluatorAlone : Obligations.GeneratorEventsLeaveEvaluatorAlone := by
  rintro s x rest hinbox (rfl | rfl | rfl)
  · exact ⟨_, step_of_cons hinbox, rfl, rfl, rfl, rfl, rfl, fun _ => rfl⟩
  · obtain ⟨hcfg, hrest, hrequest, hanswer, haddr, hreply, -, -⟩ := (s.takeInput rest).stepGenerator_frame
    exact ⟨_, step_of_cons hinbox, hrequest, hanswer, haddr, hreply, hrest, State.memRead_congr hcfg⟩
  · obtain ⟨hcfg, -, hrest, hrequest, hanswer, haddr, hreply, -⟩ := (s.takeInput rest).failSink_frame
    exact ⟨_, step_of_cons hinbox, hrequest, hanswer, haddr, hreply, hrest, State.memRead_congr hcfg⟩

/-! ## Runs of STEPs. -/

/-- A property of the number of STEPs that each STEP keeps holds after any number of them: the one induction over a
run. -/
theorem core_run_steps {P : Nat → State → Prop}
    (hstep : ∀ k u rest, P k u → P (k + 1) (u.takeInput rest).stepGenerator) {rest : List Input} (n k : Nat) (s : State)
    (hs : P k s) (hinbox : s.inbox = List.replicate n .step ++ rest) :
    ∃ t : State, core.run n s = .next t ∧ t.inbox = rest ∧ P (k + n) t := by
  induction n generalizing k s with
  | zero => exact ⟨s, rfl, hinbox, hs⟩
  | succ n ih =>
    rw [List.replicate_succ, List.cons_append] at hinbox
    obtain ⟨-, hrest, -⟩ := (s.takeInput (List.replicate n .step ++ rest)).stepGenerator_frame
    obtain ⟨t, hrun, ht, hP⟩ := ih (k + 1) _ (hstep k s _ hs) hrest
    exact ⟨t, (core_run_succ n (step_of_cons hinbox)).trans hrun, ht, by rwa [Nat.add_right_comm, Nat.add_assoc] at hP⟩

/-- A generation of configuration `cfg` in which the sink has been offered rows `n` times since RST. -/
def GenerationAt (cfg : Cfg) (n : Nat) (s : State) : Prop :=
  s.cfg = cfg ∧ s.phase = .running ∧ GeneratorInv s ∧ s.cur.position cfg = min n (rowCount cfg)

theorem generationAt_rst (s : State) : GenerationAt s.cfg 0 s.rst :=
  ⟨rfl, rfl, generatorInv_rst s, by rw [State.rst_cur, Cursor.first_position, Nat.zero_min]⟩

/-- A STEP moves a generation on by one row, or leaves it finished. -/
theorem generationAt_stepGenerator {cfg : Cfg} {n : Nat} {s : State} (h : GenerationAt cfg n s) :
    GenerationAt cfg (n + 1) s.stepGenerator := by
  obtain ⟨rfl, hphase, hgen, hpos⟩ := h
  obtain ⟨hcfg, -, -, -, -, -, -, hkeep⟩ := s.stepGenerator_frame
  refine ⟨hcfg, hkeep.trans hphase, generatorInv_stepGenerator hgen, ?_⟩
  obtain ⟨hlegal, -⟩ := hgen hphase
  rw [State.stepGenerator_of_running hphase]
  obtain ⟨hd, he⟩ | ⟨hd, he⟩ := s.stepRunning_cases <;> rw [he]
  · have hN := Cursor.position_of_done (cfg := s.cfg) hd
    omega
  · have hlt : ¬ rowCount s.cfg ≤ s.cur.position s.cfg := mt hlegal.done_iff.2 (Bool.eq_false_iff.1 hd)
    have hnext := (Cursor.advance_legal_position hlegal hd).2
    show (s.cur.advance s.cfg).position s.cfg = _
    omega

/-- Cutting an index at a list's length changes nothing: past it there is no item. -/
theorem getElem?_min_length {α : Type} (l : List α) (n : Nat) : l[min n l.length]? = l[n]? := by
  rcases Nat.le_total n l.length with h | h
  · rw [Nat.min_eq_left h]
  · rw [Nat.min_eq_right h, List.getElem?_eq_none h, List.getElem?_eq_none (Nat.le_refl _)]

/-- Settles O52: RST begins a generation and each STEP moves it on; the invariant says what its sink holds and where its
cursor stands. -/
theorem generationEmitsTheTableInOrder : Obligations.GenerationEmitsTheTableInOrder := by
  intro s n rest hinbox
  obtain ⟨t, hrun, ht, hcfg, hphase, hgen, hpos⟩ := core_run_steps (P := GenerationAt s.cfg)
    (fun k u r h => generationAt_stepGenerator (s := u.takeInput r) h) n 0 _
    (generationAt_rst (s.takeInput (List.replicate n .step ++ rest))) rfl
  obtain ⟨hlegal, hsink⟩ := hgen hphase
  rw [hcfg, hpos, Nat.zero_add] at hsink
  rw [Nat.zero_add] at hpos
  rw [hcfg] at hlegal
  refine ⟨t, (core_run_succ n (step_of_cons hinbox)).trans hrun, ht, hcfg, ?_, ?_, ?_⟩
  · rw [hsink, ← length_tableRows, ← List.take_eq_take_min]
  · rw [State.presentedRow_of_running hphase, hcfg, hlegal.row_eq_getElem?, hpos, ← length_tableRows, getElem?_min_length]
  · rw [State.doneOut_eq_done (by rw [hphase]; decide), hlegal.done_iff, hpos, length_tableRows]
    omega

/-- An aborted generation at cursor `c` under the strap `cfg`, whose sink holds `rows`. -/
def AbortedAt (cfg : Cfg) (c : Cursor) (rows : List Row) (s : State) : Prop :=
  s.phase = .aborted ∧ s.cfg = cfg ∧ s.cur = c ∧ s.sink = rows

/-- No STEP changes an aborted generation (R99, log entry 7). -/
theorem abortedAt_stepGenerator {cfg : Cfg} {c : Cursor} {rows : List Row} {s : State} (h : AbortedAt cfg c rows s) :
    AbortedAt cfg c rows s.stepGenerator := by
  rwa [State.stepGenerator_of_aborted h.1]

/-- A sink failure in a generation in progress aborts it where it stands (R95, R99). -/
theorem step_of_sinkFailure {s : State} {rest : List Input} (hphase : s.phase = .running) (hdone : s.cur.done = false)
    (hinbox : s.inbox = .sinkFailure :: rest) :
    ∃ u, step s = .next u ∧ u.inbox = rest ∧ AbortedAt s.cfg s.cur u.sink u := by
  have hfail := State.failSink_of_running (s := s.takeInput rest) hphase hdone
  refine ⟨_, step_of_cons hinbox, ?_⟩
  rw [hfail]
  exact ⟨rfl, rfl, rfl, rfl, rfl⟩

/-- Settles O55: the failure aborts the generation, STEPs keep it aborted, and RST writes cursor, phase and sink. -/
theorem sinkFailureAbortsGeneration : Obligations.SinkFailureAbortsGeneration := by
  intro s n rest hphase hdone hinbox
  obtain ⟨u, hfail, hrest, habort⟩ := step_of_sinkFailure hphase hdone hinbox
  obtain ⟨t, hrun, ht, hphase', hcfg, hcur, hsink⟩ := core_run_steps (P := fun _ => AbortedAt s.cfg s.cur u.sink)
    (fun k v r h => abortedAt_stepGenerator (s := v.takeInput r) h) n 0 u habort hrest
  refine ⟨t, (core_run_succ n hfail).trans hrun, ht, decide_eq_true hphase', hcur,
    State.presentedRow_of_aborted hphase', ?_, ⟨u, core_run_succ 0 hfail, hsink⟩, ?_⟩
  · rw [State.doneOut_eq_done (by rw [hphase']; decide), hcur, hdone]
  · rintro more rfl
    exact ⟨_, step_of_cons ht, rfl, rfl, hcfg ▸ Cursor.first_row t.cfg⟩

end Sys2Proof.Machine
